-- ==== Sys2Proof/Word.lean ====
section
/-! DEFINITION. The word types of the engine (00_scope.md R7, R9): every value is unsigned, bit 0 is the least
significant. -/

namespace Sys2Proof

/-- A 32-bit word (R7): hash words, schedule words, registers, commands. -/
abbrev Word := BitVec 32

/-- An 8-bit byte (R9). -/
abbrev Byte := BitVec 8

/-- The 64-bit byte counter and the 64-bit bit length (R17, R80). -/
abbrev Count := BitVec 64

/-- The hash state or the eight working words of a round (R14, R74). -/
abbrev HashWords := Vector Word 8

/-- One 64-byte block (R7, R71). -/
abbrev Block := Vector Byte 64

/-- The 128-byte block buffer (R15). -/
abbrev Buffer := Vector Byte 128

/-- The 64 words of a message schedule, or the 64 round constants (R16, R68). -/
abbrev ScheduleWords := Vector Word 64

end Sys2Proof
end

