-- ==== Sys2Proof/Config.lean ====
section
/-! DEFINITION. What a platform or an implementation fixes (00_scope.md R8, D3), and the free value of an unspecified
read (70_reset_and_hazards.md R121). Every constant here is opaque: nothing can be proved about its value. -/

namespace Sys2Proof

/-- The free value of a read whose value the spec leaves unspecified (R121, R115, U7, U13), one for each draw. -/
opaque Config.unspecifiedRead : Nat → Word

/-- SHA_BASE in units of 256 bytes (R8, R31): the platform's choice. -/
opaque Config.shaBasePage : Nat

/-- SHA_BASE, the base address of the register window: a multiple of 256 (R8, R31). -/
def Config.shaBase : Nat := 256 * Config.shaBasePage

/-- BUS_PROTOCOL (R8): the pin-level bus, an uninterpreted name. No rule reads it. -/
opaque Config.busProtocol : Nat

/-- RESET_KIND (R8, R115): synchronous or asynchronous, active high or low. -/
structure ResetKind where
  /-- the reset input is sampled by the clock -/
  synchronous : Bool
  /-- the reset input is asserted by a 1 -/
  activeHigh : Bool
  deriving DecidableEq, Repr, Inhabited

/-- RESET_KIND of this implementation (R8). No rule reads it. -/
opaque Config.resetKind : ResetKind

/-- LAT_INIT − 1, in clock cycles (R8, R127). -/
opaque Config.latInitExtra : Nat

/-- LAT_UPDATE − 1, in clock cycles (R8, R127). -/
opaque Config.latUpdateExtra : Nat

/-- LAT_FINAL − 1, in clock cycles (R8, R127). -/
opaque Config.latFinalExtra : Nat

/-- LAT_INIT (R127): at least 1. No rule reads it. -/
def Config.latInit : Nat := Config.latInitExtra + 1

/-- LAT_UPDATE (R127): at least 1. No rule reads it. -/
def Config.latUpdate : Nat := Config.latUpdateExtra + 1

/-- LAT_FINAL (R127): at least 1. No rule reads it. -/
def Config.latFinal : Nat := Config.latFinalExtra + 1

end Sys2Proof
end

