-- ==== Sys2Proof/Syntax.lean ====
section
/-! DEFINITION. The commands of the engine: one constructor for each row of the opcode table (30_encoding.md R50), and
the error codes a rejected write records (60_exceptions.md R100). -/

namespace Sys2Proof

/-- A command (R50). `update n` carries the byte count N of its word, 7 bits (R48, R49). -/
inductive Instr where
  /-- INIT, start a session (R91) -/
  | init
  /-- UPDATE n, absorb n message bytes (R92) -/
  | update (n : BitVec 7)
  /-- FINAL, pad and finish (R94) -/
  | final
  deriving DecidableEq, Repr

/-- The causes of a rejected write (R100). Code 0, NONE, is never raised and codes 5 to 15 are never recorded. -/
inductive ErrorCode where
  /-- 1: a CMD word that is no command -/
  | illegalCmd
  /-- 2: UPDATE with N in 65 to 127 -/
  | badCount
  /-- 3: a command its PHASE does not allow -/
  | sequence
  /-- 4: a CMD or DATA write while BUSY = 1 -/
  | busyWrite
  deriving DecidableEq, Repr

end Sys2Proof
end

