-- ==== Sys2Proof/WellFormed.lean ====
section
/-! DEFINITION. Which terms of `Instr` are commands: the byte count of UPDATE is at most 64 (30_encoding.md R50). -/

namespace Sys2Proof

/-- UPDATE takes N in 0 to 64; INIT and FINAL have no operand (R49, R50). -/
def Instr.wf : Instr → Bool
  | .init => true
  | .update n => decide (n.toNat ≤ 64)
  | .final => true

end Sys2Proof
end

