-- ==== Sys2Proof/Decode.lean ====
section
/-! DEFINITION. The command decoder (30_encoding.md R48 to R53), total on every 32-bit word and rejecting by error code,
and the encoder written from the same table. -/

namespace Sys2Proof

/-- OP = v[3:0] (R48). -/
def opField (v : Word) : BitVec 4 := v.extractLsb' 0 4

/-- RSV0 = v[7:4], must be 0 (R48). -/
def rsv0Field (v : Word) : BitVec 4 := v.extractLsb' 4 4

/-- N = v[14:8], an unsigned byte count (R48, R49). -/
def countField (v : Word) : BitVec 7 := v.extractLsb' 8 7

/-- RSV1 = v[31:15], must be 0 (R48). -/
def rsv1Field (v : Word) : BitVec 17 := v.extractLsb' 15 17

/-- The decoder's verdict on a word (R51). -/
inductive Verdict where
  | command (i : Instr)
  | illegal (code : ErrorCode)
  deriving DecidableEq, Repr

/-- `decode` of R51, test by test in its order. -/
def decode (v : Word) : Verdict :=
  if rsv1Field v ≠ 0 ∨ rsv0Field v ≠ 0 then .illegal .illegalCmd
  else if opField v = 0x1 ∧ countField v = 0 then .command .init
  else if opField v = 0x3 ∧ countField v = 0 then .command .final
  else if opField v = 0x2 ∧ (countField v).toNat ≤ 64 then .command (.update (countField v))
  else if opField v = 0x2 ∧ (countField v).toNat ≥ 65 then .illegal .badCount
  else .illegal .illegalCmd

/-- The number a code is recorded as in ERRCODE (R100). -/
def ErrorCode.number : ErrorCode → BitVec 4
  | .illegalCmd => 1
  | .badCount => 2
  | .sequence => 3
  | .busyWrite => 4

/-- The canonical word of a command (R50). -/
def encode : Instr → Word
  | .init => 0x00000001
  | .update n => 0x00000002 + (n.setWidth 32 <<< 8)
  | .final => 0x00000003

/-- The command the decoder reads from a row of the opcode table whose bits are `w` (R48: one word, every bit above the
row's `nbits` is 0). -/
def decodeTableWord (nbits w : Nat) : Option Instr :=
  match decode (BitVec.ofNat 32 (w % 2 ^ nbits)) with
  | .command i => some i
  | .illegal _ => none

end Sys2Proof
end

