-- ==== Sys2Proof/Machine/State.lean ====
section
/-! DEFINITION. The machine's state as plain data (10_state.md), what can reach it from outside, the reasons it stops,
and the state right after reset (R28). -/

namespace Sys2Proof.Machine

/-- PHASE, the session's position (R20). -/
inductive Phase where
  /-- ABSORB: full blocks may be absorbed -/
  | absorb
  /-- PARTIAL: a short UPDATE has ended the message -/
  | partialBlock
  /-- DONE: FINAL has completed and H holds the digest -/
  | done
  deriving DecidableEq, Repr

/-- The widths of a bus access (R33). -/
inductive AccessWidth where
  | bits8
  | bits16
  | bits32
  | bits64
  deriving DecidableEq, Repr

/-- One host access to the register window, at a byte offset of 8 bits (R31). The value of a write whose width is not 32
bits never matters, since it is not performed (R33). -/
inductive Access where
  | read (width : AccessWidth) (off : BitVec 8)
  | write (width : AccessWidth) (off : BitVec 8) (value : Word)
  deriving DecidableEq, Repr

/-- What happens next to the machine, in the one order of R43: an access of a host, the engine's turn (R90), or an edge
of the reset input (R115). DESIGN CHOICE, log 1. -/
inductive Event where
  | access (a : Access)
  | engineTurn
  | resetAssert
  | resetRelease
  deriving DecidableEq, Repr

/-- What the bus answers to one access: data (R35), an acknowledgement, or the error response of R104. -/
inductive BusResponse where
  | readData (value : Word)
  | writeAck
  | busError (off : BitVec 8)
  deriving DecidableEq, Repr

/-- Why the machine stops. -/
inductive Fault where
  /-- The state breaks the invariants of R29 when an agent would act on it. Raised by every command's meaning and by every
  bus access, as R105 and U5 ask. Safe: no such state is reached from reset. -/
  | invariantViolation
  /-- The engine would perform a command that no CMD write can have been accepted for: N above 64, or a PHASE that does
  not allow it (R88, R89). Raised by every command's meaning. Safe: no such state is reached from reset. -/
  | unacceptedCommand
  deriving DecidableEq, Repr

/-- Why a step has no meaning. -/
inductive Refusal where
  /-- The instruction has no meaning yet. Raised by `exec` alone. Safe. -/
  | notModelled (mnemonic : String)
  /-- A well-formed register write while reset is asserted: its effect is unspecified (R115, U13). Raised by a bus access.
  Safe: the hardware goes on, the model stops. -/
  | writeDuringReset (off : BitVec 8)
  deriving DecidableEq, Repr

/-- The engine (10_state.md), its reset input, and the model's record of what comes in and what the bus answered. -/
structure State where
  /-- H[0..7] (R14) -/
  hash : HashWords
  /-- BUF[0..127] (R15) -/
  buf : Buffer
  /-- COUNT (R17) -/
  count : Count
  /-- USED (R18) -/
  used : BitVec 6
  /-- LOVF (R19) -/
  lovf : Bool
  /-- PHASE (R20) -/
  phase : Phase
  /-- ERR (R21) -/
  err : Bool
  /-- ERRCODE (R21) -/
  errCode : BitVec 4
  /-- PENDING (R22): the accepted command not yet performed -/
  pending : Option Instr
  /-- the level of the reset input (R115) -/
  resetAsserted : Bool
  /-- the model's own: what happens next, first event first (log 1) -/
  inputs : List Event
  /-- the model's own: what the bus answered, newest first (log 3) -/
  responses : List BusResponse
  /-- the model's own: how many unspecified values have been drawn (log 4) -/
  draws : Nat
  deriving DecidableEq, Repr

/-- The state right after reset (R28, R115); the model's own fields are empty (log 20). -/
def State.reset : State where
  hash := initialHash
  buf := Vector.replicate 128 0x00
  count := 0
  used := 0
  lovf := false
  phase := .absorb
  err := false
  errCode := 0
  pending := none
  resetAsserted := false
  inputs := []
  responses := []
  draws := 0

end Sys2Proof.Machine
end

