-- ==== Sys2Proof/Machine/Operands.lean ====
section
/-! DEFINITION. The operand forms: the byte count of a command (30_encoding.md R49), the byte-order helpers
(00_scope.md R11), the register map of the window (20_memory.md R31, R32), and the address decoder. -/

namespace Sys2Proof.Machine

/-- N as a number of bytes: zero-extended, never signed or scaled (R49). -/
def byteCount (n : BitVec 7) : Nat := n.toNat

/-- be32(b0, b1, b2, b3) = b0 ‖ b1 ‖ b2 ‖ b3 (R11). -/
def be32 (b0 b1 b2 b3 : Byte) : Word := b0 ++ b1 ++ b2 ++ b3

/-- be32bytes(w): w[31:24], w[23:16], w[15:8], w[7:0] (R11). -/
def be32bytes (w : Word) : List Byte :=
  [w.extractLsb' 24 8, w.extractLsb' 16 8, w.extractLsb' 8 8, w.extractLsb' 0 8]

/-- be64bytes(L): L[63:56], …, L[7:0] (R11). -/
def be64bytes (l : Count) : List Byte :=
  [l.extractLsb' 56 8, l.extractLsb' 48 8, l.extractLsb' 40 8, l.extractLsb' 32 8,
   l.extractLsb' 24 8, l.extractLsb' 16 8, l.extractLsb' 8 8, l.extractLsb' 0 8]

/-- BUF[0..63] (R72). -/
def lowBlock (buf : Buffer) : Block := Vector.ofFn fun i => buf[i.val]

/-- BUF[64..127] (R72). -/
def highBlock (buf : Buffer) : Block := Vector.ofFn fun i => buf[64 + i.val]

/-- The word a DATA register shows: the big-endian word of four buffer bytes (R27, R36). -/
def dataWord (j : Fin 16) (buf : Buffer) : Word :=
  be32 buf[4 * j.val] buf[4 * j.val + 1] buf[4 * j.val + 2] buf[4 * j.val + 3]

/-- The registers of the window (R32). -/
inductive Reg where
  | cmd
  | status
  | countLo
  | countHi
  | h (i : Fin 8)
  | data (j : Fin 16)
  deriving DecidableEq, Repr

/-- The offset of a register (R32). -/
def regOffset : Reg → BitVec 8
  | .cmd => 0x00
  | .status => 0x04
  | .countLo => 0x08
  | .countHi => 0x0C
  | .h i => BitVec.ofNat 8 (0x20 + 4 * i.val)
  | .data j => BitVec.ofNat 8 (0x40 + 4 * j.val)

/-- The register at an offset; none for a misaligned or reserved one (R32 to R34). -/
def regAt (off : BitVec 8) : Option Reg :=
  let o := off.toNat
  if o % 4 ≠ 0 then none
  else if o = 0x00 then some .cmd
  else if o = 0x04 then some .status
  else if o = 0x08 then some .countLo
  else if o = 0x0C then some .countHi
  else if 0x20 ≤ o ∧ o < 0x40 then some (.h (Fin.ofNat 8 ((o - 0x20) / 4)))
  else if 0x40 ≤ o ∧ o < 0x80 then some (.data (Fin.ofNat 16 ((o - 0x40) / 4)))
  else none

/-- COUNT_LO, COUNT_HI and H0..H7 take no write (R34). -/
def Reg.writable : Reg → Bool
  | .cmd | .status | .data _ => true
  | .countLo | .countHi | .h _ => false

/-- The register an access reaches; none where it is answered by a bus error (R33, R34, R104). -/
def accessTarget : Access → Option Reg
  | .read .bits32 off => regAt off
  | .write .bits32 off _ => (regAt off).filter Reg.writable
  | .read _ _ => none
  | .write _ _ _ => none

/-- The offset of an access. -/
def Access.offset : Access → BitVec 8
  | .read _ off => off
  | .write _ off _ => off

/-- The platform's address decoder (R31): the offset in the window of a host address, none outside the window. -/
def windowOffset (addr : Nat) : Option (BitVec 8) :=
  if Config.shaBase ≤ addr ∧ addr < Config.shaBase + 256 then some (BitVec.ofNat 8 (addr - Config.shaBase)) else none

end Sys2Proof.Machine
end

