-- ==== Sys2Proof/Machine/Primitives.lean ====
section
/-! DEFINITION. The word-arithmetic primitives (40_word_primitives.md): total functions of words, no state, no flags
(R56). -/

namespace Sys2Proof.Machine

/-- ROTR(x, r), the amount taken mod 32 (R57, D24). -/
def rotr (x : Word) (r : Nat) : Word := (x >>> (r % 32)) ||| (x <<< (32 - r % 32))

/-- SHR(x, s) = x >> s, logical (R59). -/
def shr (x : Word) (s : Nat) : Word := x >>> s

/-- ADD32(x, y) = (x + y) mod 2^32, the carry discarded (R66). -/
def add32 (x y : Word) : Word := x + y

/-- σ0 of the schedule (R60). -/
def smallSigma0 (x : Word) : Word := rotr x 7 ^^^ rotr x 18 ^^^ shr x 3

/-- σ1 of the schedule (R61). -/
def smallSigma1 (x : Word) : Word := rotr x 17 ^^^ rotr x 19 ^^^ shr x 10

/-- Σ0 of the round (R62). -/
def bigSigma0 (x : Word) : Word := rotr x 2 ^^^ rotr x 13 ^^^ rotr x 22

/-- Σ1 of the round (R63). -/
def bigSigma1 (x : Word) : Word := rotr x 6 ^^^ rotr x 11 ^^^ rotr x 25

/-- Ch, choose (R64). -/
def ch (x y z : Word) : Word := (x &&& y) ^^^ (~~~x &&& z)

/-- Maj, majority (R65). -/
def maj (x y z : Word) : Word := (x &&& y) ^^^ (x &&& z) ^^^ (y &&& z)

end Sys2Proof.Machine
end

