-- ==== Sys2Proof/Machine/Schedule.lean ====
section
/-! DEFINITION. The message schedule expander (42_message_schedule.md R71): a pure function of one block (R73). -/

namespace Sys2Proof.Machine

/-- W[0..15], the big-endian words of the block (R71). -/
def blockWords (b : Block) : List Word :=
  List.ofFn fun t : Fin 16 => be32 b[4 * t.val] b[4 * t.val + 1] b[4 * t.val + 2] b[4 * t.val + 3]

/-- W[t] from the words before it, t being how many there are (R71, t ≥ 16). -/
def nextScheduleWord (w : List Word) : Word :=
  let t := w.length
  add32 (add32 (add32 (w.getD (t - 16) 0) (smallSigma0 (w.getD (t - 15) 0))) (w.getD (t - 7) 0))
    (smallSigma1 (w.getD (t - 2) 0))

/-- `k` more turns of the loop over t (R71). -/
def extendSchedule : Nat → List Word → List Word
  | 0, w => w
  | k + 1, w => extendSchedule k (w ++ [nextScheduleWord w])

/-- Every turn of the loop appends one word. -/
theorem extendSchedule_length (k : Nat) (w : List Word) : (extendSchedule k w).length = w.length + k := by
  induction k generalizing w with
  | zero => rfl
  | succ k ih => simp only [extendSchedule, ih, List.length_append, List.length_singleton]; omega

/-- Schedule(B): 16 words from the block, then 48 by the recurrence (R71). -/
def schedule (b : Block) : ScheduleWords :=
  ⟨⟨extendSchedule 48 (blockWords b)⟩, by simp [extendSchedule_length, blockWords]⟩

end Sys2Proof.Machine
end

