-- ==== Sys2Proof/Machine/Compression.lean ====
section
/-! DEFINITION. The compression round engine (43_compression.md R74 to R76). -/

namespace Sys2Proof.Machine

/-- T1 of a round (R74). -/
def roundT1 (v : HashWords) (k w : Word) : Word :=
  add32 (add32 (add32 (add32 v[7] (bigSigma1 v[4])) (ch v[4] v[5] v[6])) k) w

/-- T2 of a round (R74). -/
def roundT2 (v : HashWords) : Word := add32 (bigSigma0 v[0]) (maj v[0] v[1] v[2])

/-- Round(V, k, w) (R74): all eight new words come from the old ones. -/
def roundStep (v : HashWords) (k w : Word) : HashWords :=
  let t1 := roundT1 v k w
  #v[add32 t1 (roundT2 v), v[0], v[1], v[2], add32 v[3] t1, v[4], v[5], v[6]]

/-- The 64 rounds in increasing t, round t with K[t] and W[t] (R75). -/
def rounds (v : HashWords) (w : ScheduleWords) : HashWords :=
  (List.finRange 64).foldl (fun v t => roundStep v roundConstants[t] w[t]) v

/-- The feed-forward: Hout[i] = Hin[i] +32 V[i] (R76). -/
def feedForward (hin v : HashWords) : HashWords := Vector.ofFn fun i => add32 hin[i] v[i]

/-- Compress(Hin, B) (R75). -/
def compress (hin : HashWords) (b : Block) : HashWords := feedForward hin (rounds hin (schedule b))

end Sys2Proof.Machine
end

