-- ==== Sys2Proof/Machine/Flags.lean ====
section
/-! DEFINITION. STATUS (10_state.md R26), field by field, and every flag the engine computes: BUSY (R22), LOVF (R19,
R79), and the phase bits (R20). -/

namespace Sys2Proof.Machine

/-- BUSY = (PENDING ≠ none) (R22). -/
def State.busy (s : State) : Bool := s.pending.isSome

/-- STATUS from its fields, bit 31 first (R26): reserved 31:22, USED 21:16, reserved 15:12, ERRCODE 11:8, reserved 7:5,
ERR 4, LOVF 3, DONE 2, PARTIAL 1, BUSY 0. -/
def statusLayout (used : BitVec 6) (errCode : BitVec 4) (err lovf done part busy : BitVec 1) : Word :=
  0#10 ++ used ++ 0#4 ++ errCode ++ 0#3 ++ err ++ lovf ++ done ++ part ++ busy

/-- STATUS as it reads when BUSY = 0 (R26); the phase bits are 1 iff PHASE is theirs (R20). -/
def statusWord (s : State) : Word :=
  statusLayout s.used s.errCode (BitVec.ofBool s.err) (BitVec.ofBool s.lovf)
    (BitVec.ofBool (s.phase == .done)) (BitVec.ofBool (s.phase == .partialBlock)) (BitVec.ofBool s.busy)

/-- STATUS as it reads when BUSY = 1 (R26, R121): BUSY, ERR and ERRCODE exact, reserved bits 0, the other bits taken
from the free value `d`. -/
def statusWordBusy (s : State) (d : Word) : Word :=
  statusLayout (d.extractLsb' 16 6) s.errCode (BitVec.ofBool s.err) (d.extractLsb' 3 1)
    (d.extractLsb' 2 1) (d.extractLsb' 1 1) (BitVec.ofBool s.busy)

/-- The exact, unwrapped byte total after n more bytes (R79). -/
def exactTotal (count : Count) (n : BitVec 7) : Nat := count.toNat + byteCount n

/-- COUNT after an UPDATE of n bytes: the total mod 2^64 (R79). -/
def countAfter (count : Count) (n : BitVec 7) : Count := BitVec.ofNat 64 (exactTotal count n)

/-- LOVF after an UPDATE of n bytes: set when the exact total is 2^61 or more, never cleared (R19, R79). -/
def lovfAfter (lovf : Bool) (count : Count) (n : BitVec 7) : Bool := lovf || decide (2 ^ 61 ≤ exactTotal count n)

/-- BitLen: (8 × COUNT) mod 2^64 (R80). -/
def bitLength (count : Count) : Count := BitVec.ofNat 64 (8 * count.toNat)

end Sys2Proof.Machine
end

