-- ==== Sys2Proof/Machine/Padding.lean ====
section
/-! DEFINITION. The padding generator (44_padding.md R81 to R87). It writes the buffer and compresses nothing (R87). -/

namespace Sys2Proof.Machine

/-- BUF[a], BUF[a+1], … <- the bytes in order. -/
def putBytes (a : Nat) : List Byte → Buffer → Buffer
  | [], buf => buf
  | b :: bs, buf => putBytes (a + 1) bs (buf.setIfInBounds a b)

/-- `k` zero bytes from BUF[a] on. -/
def fillZeros (a : Nat) : Nat → Buffer → Buffer
  | 0, buf => buf
  | k + 1, buf => fillZeros (a + 1) k (buf.setIfInBounds a 0x00)

/-- What Pad leaves in BUF in the one-block case, used ≤ 55 (R81). -/
def padOneBlock (used : Nat) (len : Count) (buf : Buffer) : Buffer :=
  putBytes 56 (be64bytes len) (fillZeros (used + 1) (55 - used) (buf.setIfInBounds used 0x80))

/-- What Pad leaves in BUF in the two-block case, used in 56 .. 63 (R81, R83). -/
def padTwoBlocks (used : Nat) (len : Count) (buf : Buffer) : Buffer :=
  putBytes 120 (be64bytes len) (fillZeros (used + 1) (119 - used) (buf.setIfInBounds used 0x80))

/-- Pad(used, L) (R81): the new buffer and the number of blocks to compress. -/
def pad (used : Nat) (len : Count) (buf : Buffer) : Buffer × Nat :=
  if used ≤ 55 then (padOneBlock used len buf, 1) else (padTwoBlocks used len buf, 2)

end Sys2Proof.Machine
end

