-- ==== Sys2Proof/Machine/Ops.lean ====
section
/-! DEFINITION. The shared operations over the state: recording a rejected write and clearing the record (the engine's
only exception and the only return from it, R101, R108), reset (R115), the bus's answers, the guard and the end of the
engine's step (R90, R105), command issue (R88), and the register reads and writes (R35, R36, R40). -/

namespace Sys2Proof.Machine

/-! ### The error record -/

/-- `raise CmdError(code)`: the first error is kept, a later code is lost, nothing else changes (R101). -/
def raiseCmdError (code : ErrorCode) (s : State) : State :=
  { s with err := true, errCode := if s.err then s.errCode else code.number }

/-- The error record cleared (R40, R108). -/
def clearError (s : State) : State := { s with err := false, errCode := 0 }

/-! ### The bus and the outside -/

/-- What is still to come is `rest`. -/
def withInputs (rest : List Event) (s : State) : State := { s with inputs := rest }

/-- The bus answers the access being performed. -/
def respond (r : BusResponse) (s : State) : State := { s with responses := r :: s.responses }

/-- The free value of this read is used up; the next read draws another (R121). -/
def drawn (s : State) : State := { s with draws := s.draws + 1 }

/-- The bus error response; nothing of the engine changes (R104). -/
def busErrorResponse (off : BitVec 8) (s : State) : State := respond (.busError off) s

/-- The reset input is asserted: every piece of state takes its reset value, and a pending command is discarded (R115,
R117). What is still to come from outside, what the bus has answered and the draws are no state of the engine (log 18). -/
def applyReset (s : State) : State :=
  { State.reset with resetAsserted := true, inputs := s.inputs, responses := s.responses, draws := s.draws }

/-- The reset input is released. -/
def releaseReset (s : State) : State := { s with resetAsserted := false }

/-! ### What a state must be for an agent to act on it -/

/-- The invariants of R29 that a state shows; USED ≤ 63 holds by its width. -/
def State.consistent (s : State) : Bool :=
  decide ((s.phase = .absorb → s.used = 0) ∧ (s.err = false → s.errCode = 0) ∧ s.errCode.toNat ≤ 4)

/-- Allowed(d, PHASE): which command is accepted in which phase (R89). -/
def allowed : Instr → Phase → Bool
  | .init, _ => true
  | .update _, .absorb => true
  | .update _, .partialBlock => false
  | .update _, .done => false
  | .final, .absorb => true
  | .final, .partialBlock => true
  | .final, .done => false

/-- The engine's step for command `i` whose effect is `f`, ended by PENDING <- none (R90). It stops in a state that
breaks R29 (R105, U5) and for a command no write can have been accepted for (R88, R89). -/
def perform (i : Instr) (f : State → State) (s : State) : Host.Outcome State Fault Refusal :=
  if s.consistent then
    if i.wf && allowed i s.phase then .next { f s with pending := none } else .fault .unacceptedCommand
  else .fault .invariantViolation

/-! ### Writes of the window -/

/-- A write of CMD: the checks of R88 in their order, which is the priority of R103. -/
def issueCommand (v : Word) (s : State) : State :=
  if s.busy then raiseCmdError .busyWrite s
  else match decode v with
    | .illegal code => raiseCmdError code s
    | .command i => if allowed i s.phase then { s with pending := some i } else raiseCmdError .sequence s

/-- A write of STATUS: bit 4 = 1 clears the error record, every other bit is ignored (R26, R40). -/
def writeStatus (v : Word) (s : State) : State := if v.getLsbD 4 then clearError s else s

/-- A write of DATA j: four buffer bytes, the most significant first (R36); rejected while BUSY = 1 (R102). -/
def writeData (j : Fin 16) (v : Word) (s : State) : State :=
  if s.busy then raiseCmdError .busyWrite s else { s with buf := putBytes (4 * j.val) (be32bytes v) s.buf }

/-- A 32-bit write of a register; a read-only one answers a bus error (R34). -/
def writeRegister (r : Reg) (v : Word) (s : State) : State :=
  match r with
  | .cmd => respond .writeAck (issueCommand v s)
  | .status => respond .writeAck (writeStatus v s)
  | .data j => respond .writeAck (writeData j v s)
  | .countLo => busErrorResponse (regOffset .countLo) s
  | .countHi => busErrorResponse (regOffset .countHi) s
  | .h i => busErrorResponse (regOffset (.h i)) s

/-! ### Reads of the window -/

/-- What a register reads as when BUSY = 0 (R35). -/
def idleValue (r : Reg) (s : State) : Word :=
  match r with
  | .cmd => 0x00000000
  | .status => statusWord s
  | .countLo => s.count.extractLsb' 0 32
  | .countHi => s.count.extractLsb' 32 32
  | .h i => s.hash[i]
  | .data j => dataWord j s.buf

/-- What a register reads as when BUSY = 1, the free value of this read being `d` (R35, R121). -/
def busyValue (r : Reg) (s : State) (d : Word) : Word :=
  match r with
  | .cmd => 0x00000000
  | .status => statusWordBusy s d
  | .countLo | .countHi | .h _ | .data _ => d

/-- A 32-bit read of a register: it changes no state of the engine (R35). -/
def readRegister (r : Reg) (s : State) : State :=
  if s.busy then respond (.readData (busyValue r s (Config.unspecifiedRead s.draws))) (drawn s)
  else respond (.readData (idleValue r s)) s

end Sys2Proof.Machine
end

