-- ==== Sys2Proof/Machine/Commands.lean ====
section
/-! DEFINITION. The meanings of the three commands (45_commands.md R91, R92, R94): the engine's atomic step that performs
each. What a CMD write does before, the issue of R88, is `issueCommand`. -/

namespace Sys2Proof.Machine

/-- The effect of INIT on the session's state (R91). -/
def initEffect (s : State) : State :=
  { s with
    hash := initialHash
    buf := Vector.replicate 128 0x00
    count := 0
    used := 0
    lovf := false
    phase := .absorb }

/-- INIT, start a session (R91). -/
def execInit (s : State) : Host.Outcome State Fault Refusal := perform .init initEffect s

/-- CountAdd(n) (R79). -/
def countAdd (n : BitVec 7) (s : State) : State :=
  { s with count := countAfter s.count n, lovf := lovfAfter s.lovf s.count n }

/-- The effect of UPDATE n (R92): a full block is compressed, a short one ends the message. -/
def updateEffect (n : BitVec 7) (s : State) : State :=
  let t := countAdd n s
  if byteCount n = 64 then { t with hash := compress t.hash (lowBlock t.buf) }
  else { t with used := n.setWidth 6, phase := .partialBlock }

/-- UPDATE n, absorb n message bytes (R92). -/
def execUpdate (n : BitVec 7) (s : State) : Host.Outcome State Fault Refusal := perform (.update n) (updateEffect n) s

/-- H after the compressions of FINAL: BUF[0..63], and BUF[64..127] when there are two blocks (R94, R83). -/
def finalHash (hin : HashWords) (buf : Buffer) (blocks : Nat) : HashWords :=
  let h := compress hin (lowBlock buf)
  if blocks = 2 then compress h (highBlock buf) else h

/-- The effect of FINAL (R94). USED, COUNT and LOVF stay. -/
def finalEffect (s : State) : State :=
  let p := pad s.used.toNat (bitLength s.count) s.buf
  { s with hash := finalHash s.hash p.1 p.2, buf := p.1, phase := .done }

/-- FINAL, pad and finish (R94). -/
def execFinal (s : State) : Host.Outcome State Fault Refusal := perform .final finalEffect s

end Sys2Proof.Machine
end

