-- ==== Sys2Proof/Machine/Dispatch.lean ====
section
/-! DEFINITION. The meaning of each command, one arm a constructor. -/

namespace Sys2Proof.Machine

def exec (i : Instr) (s : State) : Host.Outcome State Fault Refusal :=
  match i with
  | .init => Sys2Proof.Machine.execInit s
  | .update n => Sys2Proof.Machine.execUpdate n s
  | .final => Sys2Proof.Machine.execFinal s

end Sys2Proof.Machine
end

