-- ==== Sys2Proof/Machine/Engine.lean ====
section
/-! DEFINITION. One step of the whole: a host's access to the window (R33 to R40), the engine's turn (R90), an edge of
the reset input (R115). -/

namespace Sys2Proof.Machine

/-- An access while reset is asserted (R115, U13): a read takes a free value; a write's effect is unspecified, and the
model stops. An access that is not performed at any time still answers a bus error (log 11). -/
def accessInReset (a : Access) (s : State) : Host.Outcome State Fault Refusal :=
  match accessTarget a with
  | none => .next (busErrorResponse a.offset s)
  | some _ =>
    match a with
    | .read _ _ => .next (respond (.readData (Config.unspecifiedRead s.draws)) (drawn s))
    | .write _ off _ => .refused (.writeDuringReset off)

/-- An access outside reset: not performed where it reaches no register (R33, R34), else a read or a write of it. -/
def accessWindow (a : Access) (s : State) : State :=
  match accessTarget a with
  | none => busErrorResponse a.offset s
  | some r =>
    match a with
    | .read _ _ => readRegister r s
    | .write _ _ v => writeRegister r v s

/-- One host access (R13, R42). The model stops in a state that breaks R29 (U5). -/
def hostAccess (a : Access) (s : State) : Host.Outcome State Fault Refusal :=
  if s.resetAsserted then accessInReset a s
  else if s.consistent then .next (accessWindow a s)
  else .fault .invariantViolation

/-- The engine's turn: it performs the pending command, and takes no step while nothing is pending or while reset is
asserted (R90, R115). -/
def engineTurn (s : State) : Host.Outcome State Fault Refusal :=
  if s.resetAsserted then .next s
  else match s.pending with
    | none => .next s
    | some i => exec i s

/-- One event, `s` being the state with the event taken off `inputs`. -/
def handleEvent (e : Event) (s : State) : Host.Outcome State Fault Refusal :=
  match e with
  | .access a => hostAccess a s
  | .engineTurn => engineTurn s
  | .resetAssert => .next (applyReset s)
  | .resetRelease => .next (releaseReset s)

/-- The next event happens; when none is left the engine has its turn, so that a pending command is performed (R128). -/
def runNext (s : State) : Host.Outcome State Fault Refusal :=
  match s.inputs with
  | [] => engineTurn s
  | e :: rest => handleEvent e (withInputs rest s)

/-- The engine's turn put before what is to come; it comes anyway when nothing is. -/
def engineTurnFirst : List Event → List Event
  | [] => []
  | e :: rest => .engineTurn :: e :: rest

/-- The word `v` issued to an idle engine: if it is a command its PHASE accepts (R88), it is pending and the engine has
its turn next; if not, the host's write of it comes next, which rejects it. -/
def loadCommandWord (v : Word) (s : State) : State :=
  let rejected : State :=
    { s with pending := none, resetAsserted := false,
             inputs := .access (.write .bits32 (regOffset .cmd) v) :: s.inputs }
  match decode v with
  | .command i =>
    if allowed i s.phase then
      { s with pending := some i, resetAsserted := false, inputs := engineTurnFirst s.inputs }
    else rejected
  | .illegal _ => rejected

end Sys2Proof.Machine
end

