-- ==== Sys2Proof/Machine/Step.lean ====
section
/-! DEFINITION. The machine's one step, and the state whose next step runs a given word of the opcode table. -/

namespace Sys2Proof.Machine

/-- One step: the next event of `inputs`, or the engine's turn when there is none. -/
def step (s : State) : Host.Outcome State Fault Refusal := runNext s

/-- `s` with the word `w` in the place a command is performed from, the PENDING slot (log 8). -/
def State.withFetchWord (s : State) (nbits w : Nat) : State :=
  loadCommandWord (BitVec.ofNat 32 (w % 2 ^ nbits)) s

end Sys2Proof.Machine
end

