-- ==== Sys2Proof/Machine/HostProgram.lean ====
section
/-! DEFINITION. The host's syntax and pseudo-instructions (30_encoding.md R54, R55) and the host sequence that hashes a
message (45_commands.md R96), each as the list of events it is. The engine's turn stands where the engine takes its step;
a host has no part in choosing that place. -/

namespace Sys2Proof.Machine

/-- `WR <reg>, <imm32>` (R54). -/
def hostWrite (r : Reg) (v : Word) : Event := .access (.write .bits32 (regOffset r) v)

/-- `RD <reg>` (R54). -/
def hostRead (r : Reg) : Event := .access (.read .bits32 (regOffset r))

/-- `INIT`, `UPDATE n`, `FINAL`: the CMD write of the command's word (R54). -/
def hostCommand (i : Instr) : Event := hostWrite .cmd (encode i)

/-- `WAIT` (R55): `polls` reads of STATUS that find BUSY = 1, the engine's step, and the read that finds BUSY = 0. -/
def hostWait (polls : Nat) : List Event :=
  List.replicate polls (hostRead .status) ++ [.engineTurn, hostRead .status]

/-- `CLRERR` (R55). -/
def hostClearError : List Event := [hostWrite .status 0x00000010]

/-- `LOAD` of up to 64 bytes: one DATA write for each four, missing bytes written as 0x00 (R55). -/
def hostLoad (bytes : List Byte) : List Event :=
  (List.range ((bytes.length + 3) / 4)).map fun j =>
    hostWrite (.data (Fin.ofNat 16 j))
      (be32 (bytes.getD (4 * j) 0) (bytes.getD (4 * j + 1) 0) (bytes.getD (4 * j + 2) 0) (bytes.getD (4 * j + 3) 0))

/-- `DIGEST` (R55): the eight reads of H0 to H7. -/
def hostDigest : List Event := (List.finRange 8).map fun i => hostRead (.h i)

/-- The 64 bytes of a message from byte 64b on (R96); fewer at the message's end. -/
def messagePart (m : List Byte) (b : Nat) : List Byte := (m.drop (64 * b)).take 64

/-- Every full block of the message, in order: LOAD, UPDATE 64, WAIT (R96). `polls b` is how many STATUS reads of that
WAIT find BUSY = 1. -/
def hostFullBlocks (m : List Byte) (polls : Nat → Nat) : List Event :=
  (List.range (m.length / 64)).flatMap fun b =>
    hostLoad (messagePart m b) ++ [hostCommand (.update 64)] ++ hostWait (polls b)

/-- The last r = m mod 64 bytes, if there are any: LOAD, UPDATE r, WAIT (R96). -/
def hostTail (m : List Byte) (polls : Nat) : List Event :=
  if m.length % 64 = 0 then []
  else hostLoad (messagePart m (m.length / 64)) ++ [hostCommand (.update (BitVec.ofNat 7 (m.length % 64)))] ++
    hostWait polls

/-- INIT, the blocks, the tail, FINAL (R96). The polls of the four parts' WAITs are free. -/
def hostHash (m : List Byte) (initPolls : Nat) (blockPolls : Nat → Nat) (tailPolls finalPolls : Nat) : List Event :=
  [hostCommand .init] ++ hostWait initPolls ++ hostFullBlocks m blockPolls ++ hostTail m tailPolls ++
    [hostCommand .final] ++ hostWait finalPolls

end Sys2Proof.Machine
end

