-- ==== Sys2Proof/Safety.lean ====
section
/-! DEFINITION. The terms claims are stated in: the invariant of reachable states, what two states have in common, the end
of a session and its digest (R38, R129), and the SHA-256 of a message as the spec describes it (R82, R96). -/

namespace Sys2Proof.Machine

/-- Two states with the same session: H, BUF, COUNT, USED, LOVF and PHASE. -/
structure SameSession (s t : State) : Prop where
  hash : t.hash = s.hash
  buf : t.buf = s.buf
  count : t.count = s.count
  used : t.used = s.used
  lovf : t.lovf = s.lovf
  phase : t.phase = s.phase

/-- Two states of the same engine: the session, the error record, the pending command and the reset input. -/
structure SameEngine (s t : State) : Prop extends SameSession s t where
  err : t.err = s.err
  errCode : t.errCode = s.errCode
  pending : t.pending = s.pending
  resetAsserted : t.resetAsserted = s.resetAsserted

/-- The two states are alike in what comes next, what the bus answered and the draws. -/
structure SameOutside (s t : State) : Prop where
  inputs : t.inputs = s.inputs
  responses : t.responses = s.responses
  draws : t.draws = s.draws

/-- The engine's part of a state is that of the state right after reset (R28). -/
structure AtReset (s : State) : Prop extends SameSession State.reset s where
  err : s.err = false
  errCode : s.errCode = 0
  pending : s.pending = none

/-- The invariant of reachable states: R29, and what the rules of the commands keep beside it. -/
structure State.Inv (s : State) : Prop where
  /-- R29 -/
  consistent : s.consistent = true
  /-- a recorded error has a code (R100, R101) -/
  recorded : s.err = true → s.errCode ≠ 0
  /-- the pending command was accepted: N ≤ 64, and its PHASE allows it (R88) -/
  accepted : ∀ i, s.pending = some i → i.wf = true ∧ allowed i s.phase = true
  /-- while LOVF = 0 the bit length fits 64 bits (R19) -/
  length : s.lovf = false → s.count.toNat < 2 ^ 61
  /-- USED is the length mod 64 (R92, R93) -/
  tail : s.used.toNat = s.count.toNat % 64
  /-- reset holds the engine at its reset values (R115) -/
  held : s.resetAsserted = true → AtReset s

/-- A safe run: none of the first `k` steps faults. -/
def SafeFor (k : Nat) (s : State) : Prop := ∀ f, Sys2Proof.core.run k s ≠ .fault f

/-- The engine has its turn in the next step (R90): reset is released, and its turn comes or nothing else is to
come (log 2). -/
def State.engineNext (s : State) : Prop :=
  s.resetAsserted = false ∧ (s.inputs = [] ∨ s.inputs.head? = some .engineTurn)

/-- The next step is the host's access `a` to an engine that is not in reset and whose state R29 admits. -/
structure AccessNext (a : Access) (rest : List Event) (s : State) : Prop where
  inputs : s.inputs = .access a :: rest
  released : s.resetAsserted = false
  consistent : s.consistent = true

/-- The state with its next event gone and the bus's answer recorded: what an access with no other effect leaves. -/
def answered (r : BusResponse) (rest : List Event) (s : State) : State :=
  { s with inputs := rest, responses := r :: s.responses }

/-- The session has ended: DONE = 1 and BUSY = 0 (R129). -/
def State.ended (s : State) : Bool := s.phase == .done && !s.busy

/-- The digest's 32 bytes: the eight words, each big-endian (R38, R95). -/
def digestBytes (h : HashWords) : List Byte := (List.finRange 8).flatMap fun i => be32bytes h[i]

/-- The zero-fill count z = (55 − used) mod 64 (R82). -/
def zeroFill (len : Nat) : Nat := (64 + 55 - len % 64) % 64

/-- A message with its padding: 0x80, zeros, the 64-bit big-endian bit length (R81, R82). -/
def paddedMessage (m : List Byte) : List Byte :=
  m ++ [0x80] ++ List.replicate (zeroFill m.length) 0x00 ++ be64bytes (BitVec.ofNat 64 (8 * m.length))

/-- Block `b` of a byte sequence. -/
def blockAt (p : List Byte) (b : Nat) : Block := Vector.ofFn fun i => p.getD (64 * b + i.val) 0

/-- The chaining value after the first `k` blocks of a byte sequence (R77, R78). -/
def chain (p : List Byte) (k : Nat) : HashWords :=
  (List.range k).foldl (fun h b => compress h (blockAt p b)) initialHash

/-- SHA-256 of a message: the blocks of the padded message compressed in order from IV (R96). -/
def sha256 (m : List Byte) : HashWords := chain (paddedMessage m) ((paddedMessage m).length / 64)

end Sys2Proof.Machine
end

