-- ==== Sys2Proof/Certificates/Slice0/Obligations.lean ====
section
/-! DEFINITION. The statements for the provers, from the rules of spec/. OBLIGATIONS.json lists them with the rules they
formalise. In a statement about a step the fields `inputs`, `responses` and `draws` are the model's own record of the
outside (log 1, log 3, log 4): `answered r rest s` is `s` with the event taken and the answer recorded. -/

open Sys2Proof Sys2Proof.Machine

/-! ### Encoding (30_encoding.md) -/

/-- Decoding the word of a well-formed command gives the command back, UPDATE with every byte count it admits. -/
def Obligations.DecodeOfEncode : Prop :=
  ∀ i : Instr, i.wf = true → decode (encode i) = .command i

/-- A word decodes to a command only if it is that command's canonical word, and the command is well-formed. -/
def Obligations.EncodeOfDecode : Prop :=
  ∀ (v : Word) (i : Instr), decode v = .command i → i.wf = true ∧ encode i = v

/-- R50: INIT and FINAL are one word each; UPDATE is every word of its mask and match, accepted up to N = 64 and
BAD_COUNT above; every other OP is ILLEGAL_CMD. -/
def Obligations.WordsOfEachCommand : Prop :=
  ∀ v : Word,
    (decode v = .command .init ↔ v = 0x00000001) ∧
    (decode v = .command .final ↔ v = 0x00000003) ∧
    (∀ n : BitVec 7, decode v = .command (.update n) ↔
      v &&& 0xFFFF80FF = 0x00000002 ∧ v.extractLsb' 8 7 = n ∧ n.toNat ≤ 64) ∧
    (decode v = .illegal .badCount ↔ v &&& 0xFFFF80FF = 0x00000002 ∧ 65 ≤ (v.extractLsb' 8 7).toNat) ∧
    ((v.extractLsb' 0 4 = 0x0 ∨ 0x4 ≤ (v.extractLsb' 0 4).toNat) → decode v = .illegal .illegalCmd)

/-- Words of the spec's own table of decoding vectors (95_test_vectors.md, L2 section 8). -/
def Obligations.DecodedVectors : Prop :=
  decode 0x00000001 = .command .init ∧ decode 0x00000002 = .command (.update 0) ∧
  decode 0x00000302 = .command (.update 3) ∧ decode 0x00004002 = .command (.update 64) ∧
  decode 0x00000003 = .command .final ∧ decode 0x00004102 = .illegal .badCount ∧
  decode 0x00007F02 = .illegal .badCount ∧ decode 0x00000000 = .illegal .illegalCmd ∧
  decode 0x00000101 = .illegal .illegalCmd ∧ decode 0x0000C102 = .illegal .illegalCmd

/-! ### Word primitives, constants, schedule, compression (40 to 43) -/

/-- R57: ROTR is the rotate of its formula, its amount taken mod 32; 0 and 32 give x; all zeros and all ones stay. -/
def Obligations.RotateRight : Prop :=
  (∀ (x : Word) (r i : Nat), i < 32 → (rotr x r).getLsbD i = x.getLsbD ((i + r) % 32)) ∧
  (∀ x : Word, rotr x 0 = x ∧ rotr x 32 = x) ∧ (∀ (x : Word) (r : Nat), rotr x r = rotr x (r % 32)) ∧
  (∀ r : Nat, rotr 0x00000000 r = 0x00000000 ∧ rotr 0xFFFFFFFF r = 0xFFFFFFFF) ∧
  rotr 0x80000001 1 = 0xC0000000

/-- R60 to R63: the four mixing functions as exclusive ors of rotates and a shift, with their corner cases and
examples. -/
def Obligations.SigmaFunctions : Prop :=
  (∀ x : Word,
    smallSigma0 x = x.rotateRight 7 ^^^ x.rotateRight 18 ^^^ (x >>> 3) ∧
    smallSigma1 x = x.rotateRight 17 ^^^ x.rotateRight 19 ^^^ (x >>> 10) ∧
    bigSigma0 x = x.rotateRight 2 ^^^ x.rotateRight 13 ^^^ x.rotateRight 22 ∧
    bigSigma1 x = x.rotateRight 6 ^^^ x.rotateRight 11 ^^^ x.rotateRight 25) ∧
  (smallSigma0 0 = 0 ∧ smallSigma0 0xFFFFFFFF = 0x1FFFFFFF ∧ smallSigma0 0x12345678 = 0xE7FCE6EE) ∧
  (smallSigma1 0 = 0 ∧ smallSigma1 0xFFFFFFFF = 0x003FFFFF ∧ smallSigma1 0x12345678 = 0xA1F78649) ∧
  (bigSigma0 0 = 0 ∧ bigSigma0 0xFFFFFFFF = 0xFFFFFFFF ∧ bigSigma0 0x6A09E667 = 0xCE20B47E) ∧
  (bigSigma1 0 = 0 ∧ bigSigma1 0xFFFFFFFF = 0xFFFFFFFF ∧ bigSigma1 0x510E527F = 0x3587272B)

/-- R64's corner cases, which the spec derives from its pseudocode: Ch takes y's bit where x's is 1 and z's where it
is 0. -/
def Obligations.ChooseBits : Prop :=
  (∀ (x y z : Word) (i : Nat), i < 32 →
    (ch x y z).getLsbD i = if x.getLsbD i then y.getLsbD i else z.getLsbD i) ∧
  (∀ y z : Word, ch 0xFFFFFFFF y z = y ∧ ch 0 y z = z) ∧ (∀ x y : Word, ch x y y = y) ∧
  ch 0x510E527F 0x9B05688C 0x1F83D9AB = 0x1F85C98C

/-- R65's corner cases, which the spec derives from its pseudocode: Maj is the majority of the three bits, and
symmetric. -/
def Obligations.MajorityBits : Prop :=
  (∀ (x y z : Word) (i : Nat), i < 32 →
    ((maj x y z).getLsbD i = true ↔
      2 ≤ (x.getLsbD i).toNat + (y.getLsbD i).toNat + (z.getLsbD i).toNat)) ∧
  (∀ x z : Word, maj x x z = x) ∧ (∀ x y z : Word, maj x y z = maj y x z ∧ maj x y z = maj x z y) ∧
  maj 0 0 0xFFFFFFFF = 0 ∧ maj 0xFFFFFFFF 0xFFFFFFFF 0 = 0xFFFFFFFF ∧
  maj 0x6A09E667 0xBB67AE85 0x3C6EF372 = 0x3A6FE667

/-- R66: ADD32 is the sum mod 2^32, the carry lost. -/
def Obligations.ModularAdd : Prop :=
  (∀ x y : Word, (add32 x y).toNat = (x.toNat + y.toNat) % 2 ^ 32) ∧
  add32 0xFFFFFFFF 1 = 0 ∧ add32 0x80000000 0x80000000 = 0 ∧
  add32 (add32 0xFFFFFFFF 0xFFFFFFFF) 0xFFFFFFFF = 0xFFFFFFFD ∧ add32 0x12345678 0x9ABCDEF0 = 0xACF13568

/-- The tables are those of their defining construction (41_constants.md; the spec marks tables and construction as
general knowledge, log 12): the first 32 fractional bits of the cube roots of the first 64 primes and of the square
roots of the first 8. -/
def Obligations.ConstantsFromPrimes : Prop :=
  (∀ t : Fin 64, ∃ c : Nat, c ^ 3 ≤ Nat.nth Nat.Prime t.val * 2 ^ 96 ∧ Nat.nth Nat.Prime t.val * 2 ^ 96 < (c + 1) ^ 3 ∧
    roundConstants[t] = BitVec.ofNat 32 c) ∧
  (∀ i : Fin 8, ∃ c : Nat, c ^ 2 ≤ Nat.nth Nat.Prime i.val * 2 ^ 64 ∧ Nat.nth Nat.Prime i.val * 2 ^ 64 < (c + 1) ^ 2 ∧
    initialHash[i] = BitVec.ofNat 32 c)

/-- The padded block of the message "abc" (95_test_vectors.md, L2 section 3): 61 62 63 80, zeros, 18. -/
def Sys2Proof.Machine.paddedAbc : Block :=
  Vector.ofFn fun i => if i.val = 0 then 0x61 else if i.val = 1 then 0x62 else if i.val = 2 then 0x63
    else if i.val = 3 then 0x80 else if i.val = 63 then 0x18 else 0x00

/-- R71: W[0..15] are the block's big-endian words, W[16..63] follow the recurrence; its example. -/
def Obligations.ScheduleRecurrence : Prop :=
  (∀ (b : Block) (t : Nat) (h : t < 16),
    (schedule b)[t] = b[4 * t] ++ b[4 * t + 1] ++ b[4 * t + 2] ++ b[4 * t + 3]) ∧
  (∀ (b : Block) (t : Nat) (h : t < 64), 16 ≤ t →
    (schedule b)[t] = (schedule b)[t - 16] + smallSigma0 (schedule b)[t - 15] + (schedule b)[t - 7] +
      smallSigma1 (schedule b)[t - 2]) ∧
  ((schedule paddedAbc)[0] = 0x61626380 ∧ (schedule paddedAbc)[15] = 0x00000018 ∧
    (schedule paddedAbc)[16] = 0x61626380 ∧ (schedule paddedAbc)[17] = 0x000f0000)

/-- R74: the new words of a round, all from the old ones; its example. -/
def Obligations.RoundWords : Prop :=
  (∀ (v : HashWords) (k w t1 t2 : Word),
    t1 = v[7] + bigSigma1 v[4] + ch v[4] v[5] v[6] + k + w → t2 = bigSigma0 v[0] + maj v[0] v[1] v[2] →
    roundStep v k w = #v[t1 + t2, v[0], v[1], v[2], v[3] + t1, v[4], v[5], v[6]]) ∧
  roundStep initialHash 0x428a2f98 0x61626380 =
    #v[0x5d6aebcd, 0x6a09e667, 0xbb67ae85, 0x3c6ef372, 0xfa2a4622, 0x510e527f, 0x9b05688c, 0x1f83d9ab]

/-- R75, R76: Compress runs the 64 rounds in increasing t from Hin, each on the V the round before it produced with
K[t] and W[t], and adds the result onto Hin word by word; R75's examples. -/
def Obligations.CompressRoundsAndFeedForward : Prop :=
  (∀ (hin : HashWords) (b : Block), ∃ v : Nat → HashWords,
    v 0 = hin ∧
    (∀ (t : Nat) (h : t < 64), v (t + 1) = roundStep (v t) roundConstants[t] (schedule b)[t]) ∧
    (∀ (i : Nat) (h : i < 8), (compress hin b)[i] = hin[i] + (v 64)[i])) ∧
  compress initialHash paddedAbc =
    #v[0xba7816bf, 0x8f01cfea, 0x414140de, 0x5dae2223, 0xb00361a3, 0x96177a9c, 0xb410ff61, 0xf20015ad] ∧
  compress initialHash (Vector.replicate 64 0x00) =
    #v[0xda5698be, 0x17b9b469, 0x62335799, 0x779fbeca, 0x8ce5d491, 0xc0d26243, 0xbafef9ea, 0x1837a9d8]

/-! ### Length counter and padding (44) -/

/-- R79's pseudocode: CountAdd adds n, wraps mod 2^64, and sets LOVF exactly when the exact total is 2^61 or more. Beside
it, of the function alone: CountAdd of each count of any list in turn, from COUNT = 0, leaves their sum mod 2^64. -/
def Obligations.CountAddWrapsAndFlags : Prop :=
  (∀ (s : State) (n : BitVec 7),
    countAdd n s = { s with count := s.count + n.setWidth 64
                            lovf := s.lovf || decide (2 ^ 61 ≤ s.count.toNat + n.toNat) }) ∧
  (∀ (ns : List (BitVec 7)) (s : State), s.count = 0 →
    (ns.foldl (fun t n => countAdd n t) s).count.toNat = (ns.map BitVec.toNat).sum % 2 ^ 64)

/-- R80: the bit length is 8 × COUNT mod 2^64: L[63:3] = COUNT[60:0], L[2:0] = 0. -/
def Obligations.BitLengthField : Prop :=
  (∀ c : Count, (bitLength c).toNat = 8 * c.toNat % 2 ^ 64 ∧
    (bitLength c).extractLsb' 3 61 = c.extractLsb' 0 61 ∧ (bitLength c).extractLsb' 0 3 = 0) ∧
  bitLength 3 = 0x18 ∧ bitLength 0x1FFFFFFFFFFFFFFF = 0xFFFFFFFFFFFFFFF8

/-- R81's layout, with the count of R82 and the property of R84, which the spec derives from it: the message bytes,
0x80, z zero bytes and the 8 length bytes fill whole blocks; what stands at each place of the padded content. -/
def Obligations.PaddingFillsWholeBlocks : Prop :=
  ∀ (used : Nat) (len : Count) (buf : Buffer), used ≤ 63 →
    ∃ (z blocks : Nat) (out : Buffer), pad used len buf = (out, blocks) ∧
      z = (119 - used) % 64 ∧ (used ≤ 55 → z = 55 - used ∧ blocks = 1) ∧ (56 ≤ used → z = 119 - used ∧ blocks = 2) ∧
      used + 1 + z + 8 = 64 * blocks ∧
      ∀ (a : Nat) (h : a < 128), out[a] =
        if a < used then buf[a]
        else if a = used then 0x80
        else if a < used + 1 + z then 0x00
        else if a < 64 * blocks then len.extractLsb' (8 * (64 * blocks - 1 - a)) 8
        else buf[a]

/-- R86, which the spec derives from R81: the hash FINAL leaves depends on H, COUNT, USED and the bytes below USED
alone, whatever else the two buffers hold; and a one-block FINAL leaves BUF[64..127]. -/
def Obligations.StaleBytesDoNotReachTheDigest : Prop :=
  ∀ s s' t t' : State,
    s'.hash = s.hash → s'.count = s.count → s'.used = s.used →
    (∀ (a : Nat) (h : a < 128), a < s.used.toNat → s'.buf[a] = s.buf[a]) →
    exec .final s = .next t → exec .final s' = .next t' →
    t'.hash = t.hash ∧ (∀ (a : Nat) (h : a < 64), t'.buf[a] = t.buf[a]) ∧
      (s.used.toNat ≤ 55 → ∀ (a : Nat) (h : a < 128), 64 ≤ a → t.buf[a] = s.buf[a]) ∧
      (56 ≤ s.used.toNat → ∀ (a : Nat) (h : a < 128), t'.buf[a] = t.buf[a])

/-! ### Commands (45) -/

/-- The engine's step that performs the pending command (R90) is `exec` of it. The word `w` of `withFetchWord` is decoded
and run by the very next step (the model's form, log 8); a pending command is run at the engine's turn (log 1). That it
is run too when no event is left is the model's choice (log 2): R90 leaves the time of the engine's step unspecified. -/
def Obligations.StepRunsTheDecodedCommand : Prop :=
  (∀ (s : State) (w : Word) (i : Instr), decode w = .command i → allowed i s.phase = true →
    step (s.withFetchWord 32 w.toNat) = exec i { s with pending := some i, resetAsserted := false }) ∧
  (∀ (s : State) (i : Instr) (rest : List Event), s.pending = some i → s.resetAsserted = false →
    s.inputs = .engineTurn :: rest → step s = exec i (withInputs rest s)) ∧
  (∀ (s : State) (i : Instr), s.pending = some i → s.resetAsserted = false → s.inputs = [] → step s = exec i s)

/-- R90: the engine takes no step while PENDING = none, and none in reset (R115). That the engine has its turn when no
event is left is the model's choice (log 2). -/
def Obligations.EngineRestsWhenNothingIsPending : Prop :=
  ∀ s : State, s.pending = none ∨ s.resetAsserted = true → ∀ rest : List Event,
    (s.inputs = [] → step s = .next s) ∧
    (s.inputs = .engineTurn :: rest → step s = .next (withInputs rest s))

/-- R88: a CMD write runs the four checks in their order; a rejected one leaves the error record and nothing else, an
accepted one is pending. -/
def Obligations.CommandIssue : Prop :=
  ∀ (s : State) (v : Word) (rest : List Event), AccessNext (.write .bits32 0x00 v) rest s →
    (s.busy = true → step s = .next (raiseCmdError .busyWrite (answered .writeAck rest s))) ∧
    (∀ c, s.busy = false → decode v = .illegal c → step s = .next (raiseCmdError c (answered .writeAck rest s))) ∧
    (∀ i, s.busy = false → decode v = .command i → allowed i s.phase = false →
      step s = .next (raiseCmdError .sequence (answered .writeAck rest s))) ∧
    (∀ i, s.busy = false → decode v = .command i → allowed i s.phase = true →
      step s = .next { answered .writeAck rest s with pending := some i })

/-- R89: which command is accepted in which phase. -/
def Obligations.PhaseTable : Prop :=
  (∀ p, allowed .init p = true) ∧
  (∀ (n : BitVec 7) (p : Phase), allowed (.update n) p = true ↔ p = .absorb) ∧
  (∀ p, allowed .final p = true ↔ p = .absorb ∨ p = .partialBlock)

/-- R91: INIT completes in every phase; H is IV, BUF zero, the counters and flags of the session cleared, and
everything else, the error record too, as it was. -/
def Obligations.InitStartsASession : Prop :=
  ∀ s : State, s.consistent = true →
    exec .init s = .next { s with hash := initialHash, buf := Vector.replicate 128 0x00, count := 0, used := 0
                                  lovf := false, phase := .absorb, pending := none }

/-- R92, n = 64: UPDATE compresses BUF[0..63] onto H and counts 64 bytes; BUF, USED, PHASE and the error record stay.
-/
def Obligations.UpdateFullBlock : Prop :=
  ∀ s : State, s.consistent = true → s.phase = .absorb →
    exec (.update 64) s = .next { s with hash := compress s.hash (lowBlock s.buf)
                                         count := s.count + 64
                                         lovf := s.lovf || decide (2 ^ 61 ≤ s.count.toNat + 64)
                                         pending := none }

/-- R92, n < 64: UPDATE compresses nothing; it counts n bytes, records USED = n and enters PARTIAL; H, BUF and the
error record stay. -/
def Obligations.UpdateShortBlock : Prop :=
  ∀ (s : State) (n : BitVec 7), n.toNat < 64 → s.consistent = true → s.phase = .absorb →
    exec (.update n) s = .next { s with count := s.count + n.setWidth 64
                                        lovf := s.lovf || decide (2 ^ 61 ≤ s.count.toNat + n.toNat)
                                        used := n.setWidth 6
                                        phase := .partialBlock
                                        pending := none }

/-- R94 with USED ≤ 55: FINAL pads one block and compresses it; BUF[64..127] and everything but H, BUF[0..63], PHASE
and PENDING stay. -/
def Obligations.FinalOneBlock : Prop :=
  ∀ s : State, s.consistent = true → s.phase ≠ .done → s.used.toNat ≤ 55 → ∃ out : Buffer,
    (∀ (a : Nat) (h : a < 128), out[a] =
      if a < s.used.toNat then s.buf[a]
      else if a = s.used.toNat then 0x80
      else if a < 56 then 0x00
      else if a < 64 then (s.count <<< 3).extractLsb' (8 * (63 - a)) 8
      else s.buf[a]) ∧
    exec .final s = .next { s with hash := compress s.hash (lowBlock out), buf := out, phase := .done
                                   pending := none }

/-- R94 with USED ≥ 56: FINAL pads two blocks and compresses the first and then the second; everything but H, BUF,
PHASE and PENDING stays. -/
def Obligations.FinalTwoBlocks : Prop :=
  ∀ s : State, s.consistent = true → s.phase ≠ .done → 56 ≤ s.used.toNat → ∃ out : Buffer,
    (∀ (a : Nat) (h : a < 128), out[a] =
      if a < s.used.toNat then s.buf[a]
      else if a = s.used.toNat then 0x80
      else if a < 120 then 0x00
      else (s.count <<< 3).extractLsb' (8 * (127 - a)) 8) ∧
    exec .final s = .next { s with hash := compress (compress s.hash (lowBlock out)) (highBlock out)
                                   buf := out
                                   phase := .done
                                   pending := none }

/-- R92's corner case, which the spec derives from R92 and R94: UPDATE 0 ends the message at a block boundary, and
FINAL then does what it would from ABSORB: in every state that meets the invariant the two ends are the same state. In
any other consistent state they differ at most in LOVF, which UPDATE 0 sets where COUNT is 2^61 or more and LOVF is 0. -/
def Obligations.FinalAfterEmptyUpdate : Prop :=
  ∀ s : State, s.consistent = true → s.phase = .absorb → ∃ t u v : State,
    exec (.update 0) s = .next t ∧ exec .final t = .next u ∧ exec .final s = .next v ∧
      { u with lovf := v.lovf } = v ∧ (s.Inv → u = v)

/-- R105, which the spec derives from R91, R92 and R94: an accepted command always completes and raises no error; in a
state R29 rules out the model faults instead (log 9). -/
def Obligations.EngineStepNeverFails : Prop :=
  (∀ (s : State) (i : Instr), s.Inv → s.pending = some i →
    ∃ t, exec i s = .next t ∧ t.pending = none ∧ t.err = s.err ∧ t.errCode = s.errCode) ∧
  (∀ (s : State) (i : Instr), s.consistent = false → exec i s = .fault .invariantViolation)

/-- The model's own stop (log 10): a command that no CMD write can have been accepted for is a fault, not performed.
-/
def Obligations.UnacceptedCommandFaults : Prop :=
  ∀ (s : State) (i : Instr), s.consistent = true → ¬ (i.wf = true ∧ allowed i s.phase = true) →
    exec i s = .fault .unacceptedCommand

/-! ### The register window (10, 20) -/

/-- R31: the window is the 256 byte addresses from SHA_BASE, a multiple of 256. -/
def Obligations.WindowAddresses : Prop :=
  Config.shaBase % 256 = 0 ∧
  ∀ (addr : Nat) (off : BitVec 8), windowOffset addr = some off ↔ addr = Config.shaBase + off.toNat

/-- R32: which register stands at which offset, none at every other, and which registers take a write. -/
def Obligations.RegisterMap : Prop :=
  regAt 0x00 = some .cmd ∧ regAt 0x04 = some .status ∧ regAt 0x08 = some .countLo ∧ regAt 0x0C = some .countHi ∧
  (∀ i : Fin 8, regAt (BitVec.ofNat 8 (0x20 + 4 * i.val)) = some (.h i)) ∧
  (∀ j : Fin 16, regAt (BitVec.ofNat 8 (0x40 + 4 * j.val)) = some (.data j)) ∧
  (∀ off : BitVec 8, off.toNat % 4 ≠ 0 ∨ (0x10 ≤ off.toNat ∧ off.toNat ≤ 0x1C) ∨ 0x80 ≤ off.toNat → regAt off = none) ∧
  (∀ r : Reg, r.writable = true ↔ r = .cmd ∨ r = .status ∨ ∃ j, r = .data j)

/-- R33, R34, R104: an access of another width, at a misaligned or reserved offset, or a write of a read-only register
is not performed, and its whole effect is the bus error; every other access raises none. -/
def Obligations.BusErrors : Prop :=
  (∀ (s : State) (w : AccessWidth) (off : BitVec 8) (v : Word) (rest : List Event) (a : Access),
    a = .read w off ∨ a = .write w off v → AccessNext a rest s →
    (w ≠ .bits32 ∨ off.toNat % 4 ≠ 0 ∨ (0x10 ≤ off.toNat ∧ off.toNat ≤ 0x1C) ∨ 0x80 ≤ off.toNat ∨
      (a = .write w off v ∧ (off = 0x08 ∨ off = 0x0C ∨ (0x20 ≤ off.toNat ∧ off.toNat ≤ 0x3C)))) →
    step s = .next (answered (.busError off) rest s)) ∧
  (∀ (s t : State) (r : Reg) (v : Word) (rest : List Event) (a : Access),
    a = .read .bits32 (regOffset r) ∨ (a = .write .bits32 (regOffset r) v ∧ r.writable = true) →
    AccessNext a rest s → step s = .next t →
    ∃ answer, t.responses = answer :: s.responses ∧ ∀ off, answer ≠ .busError off)

/-- R35, BUSY = 0: what each register reads as; the read changes nothing of the engine. -/
def Obligations.IdleReads : Prop :=
  ∀ (s : State) (off : BitVec 8) (rest : List Event), s.busy = false → AccessNext (.read .bits32 off) rest s →
    (off = 0x00 → step s = .next (answered (.readData 0) rest s)) ∧
    (off = 0x04 → step s = .next (answered (.readData (statusWord s)) rest s)) ∧
    (off = 0x08 → step s = .next (answered (.readData (s.count.extractLsb' 0 32)) rest s)) ∧
    (off = 0x0C → step s = .next (answered (.readData (s.count.extractLsb' 32 32)) rest s)) ∧
    (∀ (i : Nat) (h : i < 8), off.toNat = 0x20 + 4 * i → step s = .next (answered (.readData s.hash[i]) rest s)) ∧
    (∀ (j : Nat) (h : j < 16), off.toNat = 0x40 + 4 * j →
      step s = .next (answered
        (.readData (s.buf[4 * j] ++ s.buf[4 * j + 1] ++ s.buf[4 * j + 2] ++ s.buf[4 * j + 3])) rest s))

/-- R26: every field of STATUS as it reads when BUSY = 0. -/
def Obligations.StatusFields : Prop :=
  ∀ s : State, s.busy = false →
    (statusWord s).extractLsb' 0 1 = 0 ∧
    ((statusWord s).getLsbD 1 = true ↔ s.phase = .partialBlock) ∧
    ((statusWord s).getLsbD 2 = true ↔ s.phase = .done) ∧
    (statusWord s).getLsbD 3 = s.lovf ∧ (statusWord s).getLsbD 4 = s.err ∧
    (statusWord s).extractLsb' 5 3 = 0 ∧ (statusWord s).extractLsb' 8 4 = s.errCode ∧
    (statusWord s).extractLsb' 12 4 = 0 ∧ (statusWord s).extractLsb' 16 6 = s.used ∧
    (statusWord s).extractLsb' 22 10 = 0

/-- R121: while BUSY = 1 a read of a view register takes the next free value and uses it up; STATUS reads BUSY, ERR
and ERRCODE exactly, and its other fields from the free value; CMD reads 0. The statement holds whatever the free
value is. -/
def Obligations.BusyReads : Prop :=
  ∀ (s : State) (r : Reg) (rest : List Event), s.busy = true → AccessNext (.read .bits32 (regOffset r)) rest s →
    ∃ v : Word, step s = .next { answered (.readData v) rest s with draws := s.draws + 1 } ∧
      (r = .cmd → v = 0) ∧
      (r ≠ .cmd → r ≠ .status → v = Config.unspecifiedRead s.draws) ∧
      (r = .status → v.getLsbD 0 = true ∧ v.getLsbD 4 = s.err ∧ v.extractLsb' 8 4 = s.errCode ∧
        v.extractLsb' 5 3 = 0 ∧ v.extractLsb' 12 4 = 0 ∧ v.extractLsb' 22 10 = 0 ∧
        v.extractLsb' 1 3 = (Config.unspecifiedRead s.draws).extractLsb' 1 3 ∧
        v.extractLsb' 16 6 = (Config.unspecifiedRead s.draws).extractLsb' 16 6)

/-- R35: no read, of any width at any offset, busy or not, changes any state of the engine, and every read is answered.
That this holds in reset as well is the model's choice (log 11): R115 and U13 leave an access in reset unspecified, and
the bus error the model answers then to a read that is performed at no time is marked unsafe there. -/
def Obligations.ReadsHaveNoSideEffects : Prop :=
  ∀ (s : State) (w : AccessWidth) (off : BitVec 8) (rest : List Event),
    s.consistent = true → s.inputs = .access (.read w off) :: rest →
    ∃ (t : State) (answer : BusResponse), step s = .next t ∧ SameEngine s t ∧ t.inputs = rest ∧
      t.responses = answer :: s.responses

/-- R36: a DATA write when BUSY = 0 stores its four bytes, most significant first, and changes nothing else. -/
def Obligations.DataWrite : Prop :=
  ∀ (s : State) (j : Fin 16) (v : Word) (rest : List Event), s.busy = false →
    AccessNext (.write .bits32 (BitVec.ofNat 8 (0x40 + 4 * j.val)) v) rest s → ∃ out : Buffer,
      (∀ (a : Nat) (h : a < 128), out[a] =
        if a = 4 * j.val then v.extractLsb' 24 8
        else if a = 4 * j.val + 1 then v.extractLsb' 16 8
        else if a = 4 * j.val + 2 then v.extractLsb' 8 8
        else if a = 4 * j.val + 3 then v.extractLsb' 0 8
        else s.buf[a]) ∧
      step s = .next { answered .writeAck rest s with buf := out }

/-- R37, which the spec derives from R36 and R71: what is written to DATA j is the schedule word W[j] of the next
compression of BUF[0..63], and reads back. -/
def Obligations.DataWordIsScheduleWord : Prop :=
  ∀ (s : State) (j : Fin 16) (v : Word), s.busy = false →
    (schedule (lowBlock (writeData j v s).buf))[j.val] = v ∧ dataWord j (writeData j v s).buf = v

/-- R40: a STATUS write, busy or not, clears ERR and ERRCODE exactly when bit 4 is 1, and changes nothing else. -/
def Obligations.StatusWrite : Prop :=
  ∀ (s : State) (v : Word) (rest : List Event), AccessNext (.write .bits32 0x04 v) rest s →
    (v.getLsbD 4 = true → step s = .next { answered .writeAck rest s with err := false, errCode := 0 }) ∧
    (v.getLsbD 4 = false → step s = .next (answered .writeAck rest s))

/-- R38: a read of H i returns H[i], and byte k of the digest is H[k div 4][31 − 8(k mod 4) : 24 − 8(k mod 4)]. -/
def Obligations.DigestReadout : Prop :=
  (∀ (s : State) (i : Fin 8) (rest : List Event), s.busy = false →
    AccessNext (.read .bits32 (BitVec.ofNat 8 (0x20 + 4 * i.val))) rest s →
    step s = .next (answered (.readData s.hash[i]) rest s)) ∧
  (∀ h : HashWords, (digestBytes h).length = 32 ∧
    ∀ (k : Nat) (hk : k < 32), (digestBytes h)[k]? = some (h[k / 4].extractLsb' (24 - 8 * (k % 4)) 8))

/-! ### Errors (60) -/

/-- R101's pseudocode, `raise CmdError(code)`: the first error is recorded under its code and a later one is lost;
nothing else changes. The codes' numbers are R100's. Which writes raise it is said by `CommandIssue` and
`BusyWritesAreRejected`. -/
def Obligations.FirstErrorIsKept : Prop :=
  (∀ (s : State) (c : ErrorCode), s.err = false →
    raiseCmdError c s = { s with err := true, errCode := c.number }) ∧
  (∀ (s : State) (c : ErrorCode), s.err = true → raiseCmdError c s = s) ∧
  ErrorCode.illegalCmd.number = 1 ∧ ErrorCode.badCount.number = 2 ∧
  ErrorCode.sequence.number = 3 ∧ ErrorCode.busyWrite.number = 4

/-- R102: while BUSY = 1 every CMD and DATA write is rejected with BUSY_WRITE whatever its word, STATUS writes are
performed, and reads are answered with data. -/
def Obligations.BusyWritesAreRejected : Prop :=
  ∀ (s : State) (v : Word) (rest : List Event), s.busy = true →
    (AccessNext (.write .bits32 0x00 v) rest s →
      step s = .next (raiseCmdError .busyWrite (answered .writeAck rest s))) ∧
    (∀ j : Fin 16, AccessNext (.write .bits32 (regOffset (.data j)) v) rest s →
      step s = .next (raiseCmdError .busyWrite (answered .writeAck rest s))) ∧
    (AccessNext (.write .bits32 0x04 v) rest s → step s = .next (writeStatus v (answered .writeAck rest s))) ∧
    (∀ r : Reg, AccessNext (.read .bits32 (regOffset r)) rest s →
      ∃ (t : State) (d : Word), step s = .next t ∧ t.responses = .readData d :: s.responses)

/-- R103: of the causes that apply to one CMD write the first in the order BUSY_WRITE, ILLEGAL_CMD, BAD_COUNT,
SEQUENCE is recorded; each cause is said in the bits of the word. -/
def Obligations.RejectionPriority : Prop :=
  ∀ (s : State) (v : Word) (rest : List Event) (illegal badCount sequence : Prop),
    AccessNext (.write .bits32 0x00 v) rest s → s.err = false →
    (illegal ↔ v.extractLsb' 15 17 ≠ 0 ∨ v.extractLsb' 4 4 ≠ 0 ∨
      (v.extractLsb' 0 4 ≠ 1 ∧ v.extractLsb' 0 4 ≠ 2 ∧ v.extractLsb' 0 4 ≠ 3) ∨
      (v.extractLsb' 0 4 ≠ 2 ∧ v.extractLsb' 8 7 ≠ 0)) →
    (badCount ↔ v.extractLsb' 0 4 = 2 ∧ 65 ≤ (v.extractLsb' 8 7).toNat) →
    (sequence ↔ (v.extractLsb' 0 4 = 2 ∧ s.phase ≠ .absorb) ∨ (v.extractLsb' 0 4 = 3 ∧ s.phase = .done)) →
    ∃ t, step s = .next t ∧ SameSession s t ∧
      (s.busy = true → t.err = true ∧ t.errCode = 4) ∧
      (s.busy = false → illegal → t.err = true ∧ t.errCode = 1) ∧
      (s.busy = false → ¬ illegal → badCount → t.err = true ∧ t.errCode = 2) ∧
      (s.busy = false → ¬ illegal → ¬ badCount → sequence → t.err = true ∧ t.errCode = 3) ∧
      (s.busy = false → ¬ illegal → ¬ badCount → ¬ sequence → t.err = false ∧ t.pending ≠ none)

/-- R21, R108: ERR is cleared by a STATUS write with bit 4 or by reset alone, and set by a rejected CMD or DATA write
alone. -/
def Obligations.ErrorRecordWriters : Prop :=
  ∀ s t : State, step s = .next t →
    (s.err = true → t.err = false →
      s.inputs.head? = some .resetAssert ∨ ∃ v, v.getLsbD 4 = true ∧ s.inputs.head? = some (hostWrite .status v)) ∧
    (s.err = true → t.err = true → t.errCode = s.errCode) ∧
    (s.err = false → t.err = true → SameSession s t ∧ t.pending = s.pending ∧
      ∃ v, s.inputs.head? = some (hostWrite .cmd v) ∨ ∃ j, s.inputs.head? = some (hostWrite (.data j) v))

/-! ### Reset (70) -/

/-- R28: every piece of state after reset, and what STATUS reads. -/
def Obligations.ResetValues : Prop :=
  State.reset.hash = #v[0x6a09e667, 0xbb67ae85, 0x3c6ef372, 0xa54ff53a, 0x510e527f, 0x9b05688c, 0x1f83d9ab, 0x5be0cd19] ∧
  State.reset.buf = Vector.replicate 128 0x00 ∧ State.reset.count = 0 ∧ State.reset.used = 0 ∧
  State.reset.lovf = false ∧ State.reset.phase = .absorb ∧ State.reset.err = false ∧ State.reset.errCode = 0 ∧
  State.reset.pending = none ∧ State.reset.busy = false ∧ statusWord State.reset = 0x00000000

/-- R117: asserting reset in any state, a pending command or not, gives exactly the reset state's values. -/
def Obligations.ResetDiscardsThePendingCommand : Prop :=
  ∀ (s : State) (rest : List Event), s.inputs = .resetAssert :: rest →
    step s = .next { State.reset with resetAsserted := true, inputs := rest
                                      responses := s.responses, draws := s.draws }

/-- R115, R118, R119: while reset is asserted the engine stays at its reset values, and it leaves reset exactly by the
release; the release changes nothing else, in any state. Reset as a level with two edges, and the refusal of a register
write while it is asserted, its effect being unspecified, are the model's choice (log 11); the model faults on nothing
then. -/
def Obligations.ResetHoldsTheEngine : Prop :=
  (∀ s : State, s.Inv → s.resetAsserted = true →
    (∃ t, step s = .next t ∧ AtReset t ∧ (t.resetAsserted = false ↔ s.inputs.head? = some .resetRelease)) ∨
    (∃ (r : Reg) (v : Word), s.inputs.head? = some (hostWrite r v) ∧ r.writable = true ∧
      step s = .refused (.writeDuringReset (regOffset r)))) ∧
  (∀ (s : State) (rest : List Event), s.inputs = .resetRelease :: rest →
    step s = .next { s with inputs := rest, resetAsserted := false })

/-- R116, which the spec derives from R115 and R91: INIT leaves the engine at the reset values but for the error
record, which it keeps and reset clears. -/
def Obligations.InitAndResetDiffer : Prop :=
  ∀ s t : State, exec .init s = .next t →
    AtReset { t with err := false, errCode := 0 } ∧ t.err = s.err ∧ t.errCode = s.errCode ∧ AtReset (applyReset s)

/-! ### The whole machine -/

/-- R77: H changes by reset, by INIT, or by a compression of the engine's step, and by nothing else. -/
def Obligations.HashWriters : Prop :=
  ∀ s t : State, step s = .next t → t.hash ≠ s.hash →
    (s.inputs.head? = some .resetAssert ∧ t.hash = initialHash) ∨
    (s.engineNext ∧
      ((s.pending = some .init ∧ t.hash = initialHash) ∨
       (s.pending = some (.update 64) ∧ t.hash = compress s.hash (lowBlock s.buf)) ∨
       (s.pending = some .final ∧ s.used.toNat ≤ 55 ∧ t.hash = compress s.hash (lowBlock t.buf)) ∨
       (s.pending = some .final ∧ 56 ≤ s.used.toNat ∧
         t.hash = compress (compress s.hash (lowBlock t.buf)) (highBlock t.buf))))

/-- R15: BUF[64..127] are written by the padding of a two-block FINAL, by INIT and by reset alone; BUF[0..63] also by
a DATA write, and by that in its own four bytes alone. -/
def Obligations.BufferWriters : Prop :=
  ∀ (s t : State) (a : Nat) (h : a < 128), step s = .next t → t.buf[a] ≠ s.buf[a] →
    s.inputs.head? = some .resetAssert ∨ (s.engineNext ∧ s.pending = some .init) ∨
    (s.engineNext ∧ s.pending = some .final ∧ s.used.toNat ≤ a ∧ (64 ≤ a → 56 ≤ s.used.toNat)) ∨
    (∃ (j : Fin 16) (v : Word), s.inputs.head? = some (hostWrite (.data j) v) ∧ s.busy = false ∧ a / 4 = j.val)

/-- R17, R19: COUNT and LOVF change by an UPDATE, INIT and reset alone, and LOVF is cleared by INIT and reset alone.
-/
def Obligations.LengthWriters : Prop :=
  ∀ s t : State, step s = .next t →
    (t.count ≠ s.count ∨ t.lovf ≠ s.lovf →
      s.inputs.head? = some .resetAssert ∨ (s.engineNext ∧ s.pending = some .init) ∨
      (s.engineNext ∧ ∃ n, s.pending = some (.update n) ∧ t.count = s.count + n.setWidth 64)) ∧
    (s.lovf = true → t.lovf = false →
      s.inputs.head? = some .resetAssert ∨ (s.engineNext ∧ s.pending = some .init))

/-- R20: the moves between phases: to PARTIAL by a short UPDATE from ABSORB, to DONE by FINAL from ABSORB or PARTIAL,
to ABSORB by INIT or reset; no other. -/
def Obligations.PhaseMoves : Prop :=
  ∀ s t : State, step s = .next t → t.phase ≠ s.phase →
    (t.phase = .absorb ∧ (s.inputs.head? = some .resetAssert ∨ (s.engineNext ∧ s.pending = some .init))) ∨
    (s.phase = .absorb ∧ t.phase = .partialBlock ∧ s.engineNext ∧
      ∃ n : BitVec 7, n.toNat < 64 ∧ s.pending = some (.update n) ∧ t.used.toNat = n.toNat) ∨
    (s.phase ≠ .done ∧ t.phase = .done ∧ s.engineNext ∧ s.pending = some .final)

/-- R22: a command becomes pending by an accepted CMD write while none is, and stops being so by its performance or by
reset; a pending command is never replaced. -/
def Obligations.OneCommandPending : Prop :=
  ∀ s t : State, step s = .next t →
    (∀ i, s.pending = none → t.pending = some i → SameSession s t ∧ allowed i s.phase = true ∧
      ∃ v, s.inputs.head? = some (hostWrite .cmd v) ∧ decode v = .command i) ∧
    (∀ i, s.pending = some i → t.pending = some i ∨
      (t.pending = none ∧ (s.inputs.head? = some .resetAssert ∨
        (s.engineNext ∧ exec i (withInputs s.inputs.tail s) = .next t))))

/-- R95: once FINAL has completed, H0..H7 keep the digest through every step until the engine performs an INIT or reset is
asserted; also through the steps while an INIT is pending and not yet performed. -/
def Obligations.DigestIsKept : Prop :=
  ∀ s t : State, s.phase = .done → step s = .next t → s.inputs.head? ≠ some .resetAssert →
    ¬ (s.engineNext ∧ s.pending = some .init) → t.hash = s.hash ∧ t.phase = .done

/-- The invariant holds right after reset. -/
def Obligations.ResetMeetsTheInvariant : Prop := State.reset.Inv

/-- R29 and what stands beside it in `State.Inv`: every step that answers a next state keeps it. -/
def Obligations.EveryStepKeepsTheInvariant : Prop :=
  ∀ s t : State, s.Inv → step s = .next t → t.Inv

/-- From every state that meets the invariant, no run of any length faults. -/
def Obligations.NoRunFaults : Prop :=
  ∀ (k : Nat) (s : State), s.Inv → SafeFor k s

/-- R128 in the form the model gives it (log 2): a pending command does not stay pending: within one step more than
there are events to come, it is performed or a reset has discarded it, and the run to there answers a next state. -/
def Obligations.PendingCommandIsPerformed : Prop :=
  ∀ s : State, s.Inv → s.resetAsserted = false → s.pending ≠ none →
    ∃ (k : Nat) (t : State), k ≤ s.inputs.length + 1 ∧ Sys2Proof.core.run k s = .next t ∧ t.pending = none

/-- R93 and R96, which the spec derives, for the last command of a session: when H is the chaining value of a
message's full blocks, BUF holds the bytes after them, USED their number and COUNT the message's length, FINAL leaves
the SHA-256 of the message in H. -/
def Obligations.FinalGivesTheDigest : Prop :=
  ∀ (m : List Byte) (s : State), m.length < 2 ^ 61 → s.consistent = true → s.phase ≠ .done →
    s.hash = chain m (m.length / 64) → s.count = BitVec.ofNat 64 m.length → s.used.toNat = m.length % 64 →
    (∀ (a : Nat) (h : a < 128), a < s.used.toNat → s.buf[a] = m.getD (64 * (m.length / 64) + a) 0) →
    ∃ t, exec .final s = .next t ∧ t.phase = .done ∧ t.hash = sha256 m

/-- R96, which the spec derives from R91, R92, R94 and R84; WAIT in the form of log 17: the host sequence of every
message below 2^61 bytes, from every idle state that meets the invariant, with any number of STATUS polls in each
WAIT, ends the session, and the words DIGEST reads are the SHA-256 of the message. -/
def Obligations.HostSequenceHashesTheMessage : Prop :=
  ∀ (m : List Byte) (initPolls : Nat) (blockPolls : Nat → Nat) (tailPolls finalPolls : Nat) (s : State),
    m.length < 2 ^ 61 → s.Inv → s.resetAsserted = false → s.pending = none →
    s.inputs = hostHash m initPolls blockPolls tailPolls finalPolls ++ hostDigest →
    ∃ t, Sys2Proof.core.run s.inputs.length s = .next t ∧ t.inputs = [] ∧ t.ended = true ∧
      t.hash = sha256 m ∧ t.count = BitVec.ofNat 64 m.length ∧ t.lovf = false ∧
      t.err = s.err ∧ t.errCode = s.errCode ∧
      t.responses.take 8 = ((List.finRange 8).map fun i => BusResponse.readData (sha256 m)[i]).reverse
end

