-- ==== Sys2Proof/Laws/State.lean ====
section
/-! SUPPORT. One lemma per field per named update of the state: what the field holds afterwards. -/

namespace Sys2Proof.Machine

/-! ### the error record -/

@[simp] theorem raiseCmdError_hash (c : ErrorCode) (s : State) : (raiseCmdError c s).hash = s.hash := rfl
@[simp] theorem raiseCmdError_buf (c : ErrorCode) (s : State) : (raiseCmdError c s).buf = s.buf := rfl
@[simp] theorem raiseCmdError_count (c : ErrorCode) (s : State) : (raiseCmdError c s).count = s.count := rfl
@[simp] theorem raiseCmdError_used (c : ErrorCode) (s : State) : (raiseCmdError c s).used = s.used := rfl
@[simp] theorem raiseCmdError_lovf (c : ErrorCode) (s : State) : (raiseCmdError c s).lovf = s.lovf := rfl
@[simp] theorem raiseCmdError_phase (c : ErrorCode) (s : State) : (raiseCmdError c s).phase = s.phase := rfl
@[simp] theorem raiseCmdError_err (c : ErrorCode) (s : State) : (raiseCmdError c s).err = true := rfl
@[simp] theorem raiseCmdError_errCode (c : ErrorCode) (s : State) : (raiseCmdError c s).errCode = if s.err then s.errCode else c.number := rfl
@[simp] theorem raiseCmdError_pending (c : ErrorCode) (s : State) : (raiseCmdError c s).pending = s.pending := rfl
@[simp] theorem raiseCmdError_resetAsserted (c : ErrorCode) (s : State) : (raiseCmdError c s).resetAsserted = s.resetAsserted := rfl
@[simp] theorem raiseCmdError_inputs (c : ErrorCode) (s : State) : (raiseCmdError c s).inputs = s.inputs := rfl
@[simp] theorem raiseCmdError_responses (c : ErrorCode) (s : State) : (raiseCmdError c s).responses = s.responses := rfl
@[simp] theorem raiseCmdError_draws (c : ErrorCode) (s : State) : (raiseCmdError c s).draws = s.draws := rfl

@[simp] theorem clearError_hash (s : State) : (clearError s).hash = s.hash := rfl
@[simp] theorem clearError_buf (s : State) : (clearError s).buf = s.buf := rfl
@[simp] theorem clearError_count (s : State) : (clearError s).count = s.count := rfl
@[simp] theorem clearError_used (s : State) : (clearError s).used = s.used := rfl
@[simp] theorem clearError_lovf (s : State) : (clearError s).lovf = s.lovf := rfl
@[simp] theorem clearError_phase (s : State) : (clearError s).phase = s.phase := rfl
@[simp] theorem clearError_err (s : State) : (clearError s).err = false := rfl
@[simp] theorem clearError_errCode (s : State) : (clearError s).errCode = 0 := rfl
@[simp] theorem clearError_pending (s : State) : (clearError s).pending = s.pending := rfl
@[simp] theorem clearError_resetAsserted (s : State) : (clearError s).resetAsserted = s.resetAsserted := rfl
@[simp] theorem clearError_inputs (s : State) : (clearError s).inputs = s.inputs := rfl
@[simp] theorem clearError_responses (s : State) : (clearError s).responses = s.responses := rfl
@[simp] theorem clearError_draws (s : State) : (clearError s).draws = s.draws := rfl

/-! ### the bus and the outside -/

@[simp] theorem withInputs_hash (rest : List Event) (s : State) : (withInputs rest s).hash = s.hash := rfl
@[simp] theorem withInputs_buf (rest : List Event) (s : State) : (withInputs rest s).buf = s.buf := rfl
@[simp] theorem withInputs_count (rest : List Event) (s : State) : (withInputs rest s).count = s.count := rfl
@[simp] theorem withInputs_used (rest : List Event) (s : State) : (withInputs rest s).used = s.used := rfl
@[simp] theorem withInputs_lovf (rest : List Event) (s : State) : (withInputs rest s).lovf = s.lovf := rfl
@[simp] theorem withInputs_phase (rest : List Event) (s : State) : (withInputs rest s).phase = s.phase := rfl
@[simp] theorem withInputs_err (rest : List Event) (s : State) : (withInputs rest s).err = s.err := rfl
@[simp] theorem withInputs_errCode (rest : List Event) (s : State) : (withInputs rest s).errCode = s.errCode := rfl
@[simp] theorem withInputs_pending (rest : List Event) (s : State) : (withInputs rest s).pending = s.pending := rfl
@[simp] theorem withInputs_resetAsserted (rest : List Event) (s : State) : (withInputs rest s).resetAsserted = s.resetAsserted := rfl
@[simp] theorem withInputs_inputs (rest : List Event) (s : State) : (withInputs rest s).inputs = rest := rfl
@[simp] theorem withInputs_responses (rest : List Event) (s : State) : (withInputs rest s).responses = s.responses := rfl
@[simp] theorem withInputs_draws (rest : List Event) (s : State) : (withInputs rest s).draws = s.draws := rfl

@[simp] theorem respond_hash (r : BusResponse) (s : State) : (respond r s).hash = s.hash := rfl
@[simp] theorem respond_buf (r : BusResponse) (s : State) : (respond r s).buf = s.buf := rfl
@[simp] theorem respond_count (r : BusResponse) (s : State) : (respond r s).count = s.count := rfl
@[simp] theorem respond_used (r : BusResponse) (s : State) : (respond r s).used = s.used := rfl
@[simp] theorem respond_lovf (r : BusResponse) (s : State) : (respond r s).lovf = s.lovf := rfl
@[simp] theorem respond_phase (r : BusResponse) (s : State) : (respond r s).phase = s.phase := rfl
@[simp] theorem respond_err (r : BusResponse) (s : State) : (respond r s).err = s.err := rfl
@[simp] theorem respond_errCode (r : BusResponse) (s : State) : (respond r s).errCode = s.errCode := rfl
@[simp] theorem respond_pending (r : BusResponse) (s : State) : (respond r s).pending = s.pending := rfl
@[simp] theorem respond_resetAsserted (r : BusResponse) (s : State) : (respond r s).resetAsserted = s.resetAsserted := rfl
@[simp] theorem respond_inputs (r : BusResponse) (s : State) : (respond r s).inputs = s.inputs := rfl
@[simp] theorem respond_responses (r : BusResponse) (s : State) : (respond r s).responses = r :: s.responses := rfl
@[simp] theorem respond_draws (r : BusResponse) (s : State) : (respond r s).draws = s.draws := rfl

@[simp] theorem busErrorResponse_hash (off : BitVec 8) (s : State) : (busErrorResponse off s).hash = s.hash := rfl
@[simp] theorem busErrorResponse_buf (off : BitVec 8) (s : State) : (busErrorResponse off s).buf = s.buf := rfl
@[simp] theorem busErrorResponse_count (off : BitVec 8) (s : State) : (busErrorResponse off s).count = s.count := rfl
@[simp] theorem busErrorResponse_used (off : BitVec 8) (s : State) : (busErrorResponse off s).used = s.used := rfl
@[simp] theorem busErrorResponse_lovf (off : BitVec 8) (s : State) : (busErrorResponse off s).lovf = s.lovf := rfl
@[simp] theorem busErrorResponse_phase (off : BitVec 8) (s : State) : (busErrorResponse off s).phase = s.phase := rfl
@[simp] theorem busErrorResponse_err (off : BitVec 8) (s : State) : (busErrorResponse off s).err = s.err := rfl
@[simp] theorem busErrorResponse_errCode (off : BitVec 8) (s : State) : (busErrorResponse off s).errCode = s.errCode := rfl
@[simp] theorem busErrorResponse_pending (off : BitVec 8) (s : State) : (busErrorResponse off s).pending = s.pending := rfl
@[simp] theorem busErrorResponse_resetAsserted (off : BitVec 8) (s : State) : (busErrorResponse off s).resetAsserted = s.resetAsserted := rfl
@[simp] theorem busErrorResponse_inputs (off : BitVec 8) (s : State) : (busErrorResponse off s).inputs = s.inputs := rfl
@[simp] theorem busErrorResponse_responses (off : BitVec 8) (s : State) : (busErrorResponse off s).responses = .busError off :: s.responses := rfl
@[simp] theorem busErrorResponse_draws (off : BitVec 8) (s : State) : (busErrorResponse off s).draws = s.draws := rfl

@[simp] theorem drawn_hash (s : State) : (drawn s).hash = s.hash := rfl
@[simp] theorem drawn_buf (s : State) : (drawn s).buf = s.buf := rfl
@[simp] theorem drawn_count (s : State) : (drawn s).count = s.count := rfl
@[simp] theorem drawn_used (s : State) : (drawn s).used = s.used := rfl
@[simp] theorem drawn_lovf (s : State) : (drawn s).lovf = s.lovf := rfl
@[simp] theorem drawn_phase (s : State) : (drawn s).phase = s.phase := rfl
@[simp] theorem drawn_err (s : State) : (drawn s).err = s.err := rfl
@[simp] theorem drawn_errCode (s : State) : (drawn s).errCode = s.errCode := rfl
@[simp] theorem drawn_pending (s : State) : (drawn s).pending = s.pending := rfl
@[simp] theorem drawn_resetAsserted (s : State) : (drawn s).resetAsserted = s.resetAsserted := rfl
@[simp] theorem drawn_inputs (s : State) : (drawn s).inputs = s.inputs := rfl
@[simp] theorem drawn_responses (s : State) : (drawn s).responses = s.responses := rfl
@[simp] theorem drawn_draws (s : State) : (drawn s).draws = s.draws + 1 := rfl

@[simp] theorem applyReset_hash (s : State) : (applyReset s).hash = State.reset.hash := rfl
@[simp] theorem applyReset_buf (s : State) : (applyReset s).buf = State.reset.buf := rfl
@[simp] theorem applyReset_count (s : State) : (applyReset s).count = State.reset.count := rfl
@[simp] theorem applyReset_used (s : State) : (applyReset s).used = State.reset.used := rfl
@[simp] theorem applyReset_lovf (s : State) : (applyReset s).lovf = State.reset.lovf := rfl
@[simp] theorem applyReset_phase (s : State) : (applyReset s).phase = State.reset.phase := rfl
@[simp] theorem applyReset_err (s : State) : (applyReset s).err = State.reset.err := rfl
@[simp] theorem applyReset_errCode (s : State) : (applyReset s).errCode = State.reset.errCode := rfl
@[simp] theorem applyReset_pending (s : State) : (applyReset s).pending = State.reset.pending := rfl
@[simp] theorem applyReset_resetAsserted (s : State) : (applyReset s).resetAsserted = true := rfl
@[simp] theorem applyReset_inputs (s : State) : (applyReset s).inputs = s.inputs := rfl
@[simp] theorem applyReset_responses (s : State) : (applyReset s).responses = s.responses := rfl
@[simp] theorem applyReset_draws (s : State) : (applyReset s).draws = s.draws := rfl

@[simp] theorem releaseReset_hash (s : State) : (releaseReset s).hash = s.hash := rfl
@[simp] theorem releaseReset_buf (s : State) : (releaseReset s).buf = s.buf := rfl
@[simp] theorem releaseReset_count (s : State) : (releaseReset s).count = s.count := rfl
@[simp] theorem releaseReset_used (s : State) : (releaseReset s).used = s.used := rfl
@[simp] theorem releaseReset_lovf (s : State) : (releaseReset s).lovf = s.lovf := rfl
@[simp] theorem releaseReset_phase (s : State) : (releaseReset s).phase = s.phase := rfl
@[simp] theorem releaseReset_err (s : State) : (releaseReset s).err = s.err := rfl
@[simp] theorem releaseReset_errCode (s : State) : (releaseReset s).errCode = s.errCode := rfl
@[simp] theorem releaseReset_pending (s : State) : (releaseReset s).pending = s.pending := rfl
@[simp] theorem releaseReset_resetAsserted (s : State) : (releaseReset s).resetAsserted = false := rfl
@[simp] theorem releaseReset_inputs (s : State) : (releaseReset s).inputs = s.inputs := rfl
@[simp] theorem releaseReset_responses (s : State) : (releaseReset s).responses = s.responses := rfl
@[simp] theorem releaseReset_draws (s : State) : (releaseReset s).draws = s.draws := rfl

/-! ### the effects of the commands -/

@[simp] theorem initEffect_hash (s : State) : (initEffect s).hash = initialHash := rfl
@[simp] theorem initEffect_buf (s : State) : (initEffect s).buf = Vector.replicate 128 0x00 := rfl
@[simp] theorem initEffect_count (s : State) : (initEffect s).count = 0 := rfl
@[simp] theorem initEffect_used (s : State) : (initEffect s).used = 0 := rfl
@[simp] theorem initEffect_lovf (s : State) : (initEffect s).lovf = false := rfl
@[simp] theorem initEffect_phase (s : State) : (initEffect s).phase = .absorb := rfl
@[simp] theorem initEffect_err (s : State) : (initEffect s).err = s.err := rfl
@[simp] theorem initEffect_errCode (s : State) : (initEffect s).errCode = s.errCode := rfl
@[simp] theorem initEffect_pending (s : State) : (initEffect s).pending = s.pending := rfl
@[simp] theorem initEffect_resetAsserted (s : State) : (initEffect s).resetAsserted = s.resetAsserted := rfl
@[simp] theorem initEffect_inputs (s : State) : (initEffect s).inputs = s.inputs := rfl
@[simp] theorem initEffect_responses (s : State) : (initEffect s).responses = s.responses := rfl
@[simp] theorem initEffect_draws (s : State) : (initEffect s).draws = s.draws := rfl

@[simp] theorem countAdd_hash (n : BitVec 7) (s : State) : (countAdd n s).hash = s.hash := rfl
@[simp] theorem countAdd_buf (n : BitVec 7) (s : State) : (countAdd n s).buf = s.buf := rfl
@[simp] theorem countAdd_count (n : BitVec 7) (s : State) : (countAdd n s).count = countAfter s.count n := rfl
@[simp] theorem countAdd_used (n : BitVec 7) (s : State) : (countAdd n s).used = s.used := rfl
@[simp] theorem countAdd_lovf (n : BitVec 7) (s : State) : (countAdd n s).lovf = lovfAfter s.lovf s.count n := rfl
@[simp] theorem countAdd_phase (n : BitVec 7) (s : State) : (countAdd n s).phase = s.phase := rfl
@[simp] theorem countAdd_err (n : BitVec 7) (s : State) : (countAdd n s).err = s.err := rfl
@[simp] theorem countAdd_errCode (n : BitVec 7) (s : State) : (countAdd n s).errCode = s.errCode := rfl
@[simp] theorem countAdd_pending (n : BitVec 7) (s : State) : (countAdd n s).pending = s.pending := rfl
@[simp] theorem countAdd_resetAsserted (n : BitVec 7) (s : State) : (countAdd n s).resetAsserted = s.resetAsserted := rfl
@[simp] theorem countAdd_inputs (n : BitVec 7) (s : State) : (countAdd n s).inputs = s.inputs := rfl
@[simp] theorem countAdd_responses (n : BitVec 7) (s : State) : (countAdd n s).responses = s.responses := rfl
@[simp] theorem countAdd_draws (n : BitVec 7) (s : State) : (countAdd n s).draws = s.draws := rfl

@[simp] theorem finalEffect_hash (s : State) : (finalEffect s).hash = finalHash s.hash (pad s.used.toNat (bitLength s.count) s.buf).1
      (pad s.used.toNat (bitLength s.count) s.buf).2 := rfl
@[simp] theorem finalEffect_buf (s : State) : (finalEffect s).buf = (pad s.used.toNat (bitLength s.count) s.buf).1 := rfl
@[simp] theorem finalEffect_count (s : State) : (finalEffect s).count = s.count := rfl
@[simp] theorem finalEffect_used (s : State) : (finalEffect s).used = s.used := rfl
@[simp] theorem finalEffect_lovf (s : State) : (finalEffect s).lovf = s.lovf := rfl
@[simp] theorem finalEffect_phase (s : State) : (finalEffect s).phase = .done := rfl
@[simp] theorem finalEffect_err (s : State) : (finalEffect s).err = s.err := rfl
@[simp] theorem finalEffect_errCode (s : State) : (finalEffect s).errCode = s.errCode := rfl
@[simp] theorem finalEffect_pending (s : State) : (finalEffect s).pending = s.pending := rfl
@[simp] theorem finalEffect_resetAsserted (s : State) : (finalEffect s).resetAsserted = s.resetAsserted := rfl
@[simp] theorem finalEffect_inputs (s : State) : (finalEffect s).inputs = s.inputs := rfl
@[simp] theorem finalEffect_responses (s : State) : (finalEffect s).responses = s.responses := rfl
@[simp] theorem finalEffect_draws (s : State) : (finalEffect s).draws = s.draws := rfl

@[simp] theorem updateEffect_hash (n : BitVec 7) (s : State) : (updateEffect n s).hash =
    if byteCount n = 64 then compress s.hash (lowBlock s.buf) else s.hash := by
  unfold updateEffect; split <;> rfl
@[simp] theorem updateEffect_buf (n : BitVec 7) (s : State) : (updateEffect n s).buf =
    s.buf := by
  unfold updateEffect; split <;> rfl
@[simp] theorem updateEffect_count (n : BitVec 7) (s : State) : (updateEffect n s).count =
    countAfter s.count n := by
  unfold updateEffect; split <;> rfl
@[simp] theorem updateEffect_used (n : BitVec 7) (s : State) : (updateEffect n s).used =
    if byteCount n = 64 then s.used else n.setWidth 6 := by
  unfold updateEffect; split <;> rfl
@[simp] theorem updateEffect_lovf (n : BitVec 7) (s : State) : (updateEffect n s).lovf =
    lovfAfter s.lovf s.count n := by
  unfold updateEffect; split <;> rfl
@[simp] theorem updateEffect_phase (n : BitVec 7) (s : State) : (updateEffect n s).phase =
    if byteCount n = 64 then s.phase else .partialBlock := by
  unfold updateEffect; split <;> rfl
@[simp] theorem updateEffect_err (n : BitVec 7) (s : State) : (updateEffect n s).err =
    s.err := by
  unfold updateEffect; split <;> rfl
@[simp] theorem updateEffect_errCode (n : BitVec 7) (s : State) : (updateEffect n s).errCode =
    s.errCode := by
  unfold updateEffect; split <;> rfl
@[simp] theorem updateEffect_pending (n : BitVec 7) (s : State) : (updateEffect n s).pending =
    s.pending := by
  unfold updateEffect; split <;> rfl
@[simp] theorem updateEffect_resetAsserted (n : BitVec 7) (s : State) : (updateEffect n s).resetAsserted =
    s.resetAsserted := by
  unfold updateEffect; split <;> rfl
@[simp] theorem updateEffect_inputs (n : BitVec 7) (s : State) : (updateEffect n s).inputs =
    s.inputs := by
  unfold updateEffect; split <;> rfl
@[simp] theorem updateEffect_responses (n : BitVec 7) (s : State) : (updateEffect n s).responses =
    s.responses := by
  unfold updateEffect; split <;> rfl
@[simp] theorem updateEffect_draws (n : BitVec 7) (s : State) : (updateEffect n s).draws =
    s.draws := by
  unfold updateEffect; split <;> rfl

/-! ### the writes of the window -/

@[simp] theorem writeStatus_hash (v : Word) (s : State) : (writeStatus v s).hash =
    s.hash := by
  unfold writeStatus; split <;> simp_all
@[simp] theorem writeStatus_buf (v : Word) (s : State) : (writeStatus v s).buf =
    s.buf := by
  unfold writeStatus; split <;> simp_all
@[simp] theorem writeStatus_count (v : Word) (s : State) : (writeStatus v s).count =
    s.count := by
  unfold writeStatus; split <;> simp_all
@[simp] theorem writeStatus_used (v : Word) (s : State) : (writeStatus v s).used =
    s.used := by
  unfold writeStatus; split <;> simp_all
@[simp] theorem writeStatus_lovf (v : Word) (s : State) : (writeStatus v s).lovf =
    s.lovf := by
  unfold writeStatus; split <;> simp_all
@[simp] theorem writeStatus_phase (v : Word) (s : State) : (writeStatus v s).phase =
    s.phase := by
  unfold writeStatus; split <;> simp_all
@[simp] theorem writeStatus_err (v : Word) (s : State) : (writeStatus v s).err =
    (!v.getLsbD 4 && s.err) := by
  unfold writeStatus; split <;> simp_all
@[simp] theorem writeStatus_errCode (v : Word) (s : State) : (writeStatus v s).errCode =
    if v.getLsbD 4 then 0 else s.errCode := by
  unfold writeStatus; split <;> simp_all
@[simp] theorem writeStatus_pending (v : Word) (s : State) : (writeStatus v s).pending =
    s.pending := by
  unfold writeStatus; split <;> simp_all
@[simp] theorem writeStatus_resetAsserted (v : Word) (s : State) : (writeStatus v s).resetAsserted =
    s.resetAsserted := by
  unfold writeStatus; split <;> simp_all
@[simp] theorem writeStatus_inputs (v : Word) (s : State) : (writeStatus v s).inputs =
    s.inputs := by
  unfold writeStatus; split <;> simp_all
@[simp] theorem writeStatus_responses (v : Word) (s : State) : (writeStatus v s).responses =
    s.responses := by
  unfold writeStatus; split <;> simp_all
@[simp] theorem writeStatus_draws (v : Word) (s : State) : (writeStatus v s).draws =
    s.draws := by
  unfold writeStatus; split <;> simp_all

@[simp] theorem writeData_hash (j : Fin 16) (v : Word) (s : State) : (writeData j v s).hash =
    s.hash := by
  unfold writeData; split <;> simp_all
@[simp] theorem writeData_buf (j : Fin 16) (v : Word) (s : State) : (writeData j v s).buf =
    if s.busy then s.buf else putBytes (4 * j.val) (be32bytes v) s.buf := by
  unfold writeData; split <;> simp_all
@[simp] theorem writeData_count (j : Fin 16) (v : Word) (s : State) : (writeData j v s).count =
    s.count := by
  unfold writeData; split <;> simp_all
@[simp] theorem writeData_used (j : Fin 16) (v : Word) (s : State) : (writeData j v s).used =
    s.used := by
  unfold writeData; split <;> simp_all
@[simp] theorem writeData_lovf (j : Fin 16) (v : Word) (s : State) : (writeData j v s).lovf =
    s.lovf := by
  unfold writeData; split <;> simp_all
@[simp] theorem writeData_phase (j : Fin 16) (v : Word) (s : State) : (writeData j v s).phase =
    s.phase := by
  unfold writeData; split <;> simp_all
@[simp] theorem writeData_err (j : Fin 16) (v : Word) (s : State) : (writeData j v s).err =
    (s.busy || s.err) := by
  unfold writeData; split <;> simp_all
@[simp] theorem writeData_errCode (j : Fin 16) (v : Word) (s : State) : (writeData j v s).errCode =
    if s.busy && !s.err then 4 else s.errCode := by
  unfold writeData; split <;> simp_all [ErrorCode.number]; split <;> simp_all
@[simp] theorem writeData_pending (j : Fin 16) (v : Word) (s : State) : (writeData j v s).pending =
    s.pending := by
  unfold writeData; split <;> simp_all
@[simp] theorem writeData_resetAsserted (j : Fin 16) (v : Word) (s : State) : (writeData j v s).resetAsserted =
    s.resetAsserted := by
  unfold writeData; split <;> simp_all
@[simp] theorem writeData_inputs (j : Fin 16) (v : Word) (s : State) : (writeData j v s).inputs =
    s.inputs := by
  unfold writeData; split <;> simp_all
@[simp] theorem writeData_responses (j : Fin 16) (v : Word) (s : State) : (writeData j v s).responses =
    s.responses := by
  unfold writeData; split <;> simp_all
@[simp] theorem writeData_draws (j : Fin 16) (v : Word) (s : State) : (writeData j v s).draws =
    s.draws := by
  unfold writeData; split <;> simp_all

@[simp] theorem issueCommand_hash (v : Word) (s : State) : (issueCommand v s).hash = s.hash := by
  unfold issueCommand; split <;> (try split) <;> (try split) <;> rfl
@[simp] theorem issueCommand_buf (v : Word) (s : State) : (issueCommand v s).buf = s.buf := by
  unfold issueCommand; split <;> (try split) <;> (try split) <;> rfl
@[simp] theorem issueCommand_count (v : Word) (s : State) : (issueCommand v s).count = s.count := by
  unfold issueCommand; split <;> (try split) <;> (try split) <;> rfl
@[simp] theorem issueCommand_used (v : Word) (s : State) : (issueCommand v s).used = s.used := by
  unfold issueCommand; split <;> (try split) <;> (try split) <;> rfl
@[simp] theorem issueCommand_lovf (v : Word) (s : State) : (issueCommand v s).lovf = s.lovf := by
  unfold issueCommand; split <;> (try split) <;> (try split) <;> rfl
@[simp] theorem issueCommand_phase (v : Word) (s : State) : (issueCommand v s).phase = s.phase := by
  unfold issueCommand; split <;> (try split) <;> (try split) <;> rfl
@[simp] theorem issueCommand_resetAsserted (v : Word) (s : State) : (issueCommand v s).resetAsserted = s.resetAsserted := by
  unfold issueCommand; split <;> (try split) <;> (try split) <;> rfl
@[simp] theorem issueCommand_inputs (v : Word) (s : State) : (issueCommand v s).inputs = s.inputs := by
  unfold issueCommand; split <;> (try split) <;> (try split) <;> rfl
@[simp] theorem issueCommand_responses (v : Word) (s : State) : (issueCommand v s).responses = s.responses := by
  unfold issueCommand; split <;> (try split) <;> (try split) <;> rfl
@[simp] theorem issueCommand_draws (v : Word) (s : State) : (issueCommand v s).draws = s.draws := by
  unfold issueCommand; split <;> (try split) <;> (try split) <;> rfl

/-! ### the reads of the window -/

@[simp] theorem readRegister_hash (r : Reg) (s : State) : (readRegister r s).hash =
    s.hash := by
  unfold readRegister; split <;> simp_all
@[simp] theorem readRegister_buf (r : Reg) (s : State) : (readRegister r s).buf =
    s.buf := by
  unfold readRegister; split <;> simp_all
@[simp] theorem readRegister_count (r : Reg) (s : State) : (readRegister r s).count =
    s.count := by
  unfold readRegister; split <;> simp_all
@[simp] theorem readRegister_used (r : Reg) (s : State) : (readRegister r s).used =
    s.used := by
  unfold readRegister; split <;> simp_all
@[simp] theorem readRegister_lovf (r : Reg) (s : State) : (readRegister r s).lovf =
    s.lovf := by
  unfold readRegister; split <;> simp_all
@[simp] theorem readRegister_phase (r : Reg) (s : State) : (readRegister r s).phase =
    s.phase := by
  unfold readRegister; split <;> simp_all
@[simp] theorem readRegister_err (r : Reg) (s : State) : (readRegister r s).err =
    s.err := by
  unfold readRegister; split <;> simp_all
@[simp] theorem readRegister_errCode (r : Reg) (s : State) : (readRegister r s).errCode =
    s.errCode := by
  unfold readRegister; split <;> simp_all
@[simp] theorem readRegister_pending (r : Reg) (s : State) : (readRegister r s).pending =
    s.pending := by
  unfold readRegister; split <;> simp_all
@[simp] theorem readRegister_resetAsserted (r : Reg) (s : State) : (readRegister r s).resetAsserted =
    s.resetAsserted := by
  unfold readRegister; split <;> simp_all
@[simp] theorem readRegister_inputs (r : Reg) (s : State) : (readRegister r s).inputs =
    s.inputs := by
  unfold readRegister; split <;> simp_all
@[simp] theorem readRegister_responses (r : Reg) (s : State) : (readRegister r s).responses =
    .readData (if s.busy then busyValue r s (Config.unspecifiedRead s.draws) else idleValue r s) :: s.responses := by
  unfold readRegister; split <;> simp_all
@[simp] theorem readRegister_draws (r : Reg) (s : State) : (readRegister r s).draws =
    if s.busy then s.draws + 1 else s.draws := by
  unfold readRegister; split <;> simp_all

/-! ### BUSY -/

theorem busy_eq_false (s : State) : s.busy = false ↔ s.pending = none := by
  simp [State.busy]

theorem busy_eq_true (s : State) : s.busy = true ↔ ∃ i, s.pending = some i := by
  simp [State.busy, Option.isSome_iff_exists]

@[simp] theorem withInputs_busy (rest : List Event) (s : State) : (withInputs rest s).busy = s.busy := rfl
@[simp] theorem respond_busy (r : BusResponse) (s : State) : (respond r s).busy = s.busy := rfl
@[simp] theorem busErrorResponse_busy (off : BitVec 8) (s : State) : (busErrorResponse off s).busy = s.busy := rfl
@[simp] theorem drawn_busy (s : State) : (drawn s).busy = s.busy := rfl
@[simp] theorem raiseCmdError_busy (c : ErrorCode) (s : State) : (raiseCmdError c s).busy = s.busy := rfl
@[simp] theorem clearError_busy (s : State) : (clearError s).busy = s.busy := rfl
@[simp] theorem writeStatus_busy (v : Word) (s : State) : (writeStatus v s).busy = s.busy := by simp [State.busy]
@[simp] theorem writeData_busy (j : Fin 16) (v : Word) (s : State) : (writeData j v s).busy = s.busy := by
  simp [State.busy]
@[simp] theorem readRegister_busy (r : Reg) (s : State) : (readRegister r s).busy = s.busy := by simp [State.busy]

end Sys2Proof.Machine
end

