-- ==== Sys2Proof/Laws/Ops.lean ====
section
/-! SUPPORT. What each shared operation and the step can do, said once; later proofs cite these and do not unfold the
operations. -/

namespace Sys2Proof.Machine

/-! ### The engine's step -/

/-- What `consistent` says (R29). -/
theorem consistent_iff (s : State) :
    s.consistent = true ↔
      (s.phase = .absorb → s.used = 0) ∧ (s.err = false → s.errCode = 0) ∧ s.errCode.toNat ≤ 4 := by
  simp only [State.consistent, decide_eq_true_eq]

/-- Consistency reads PHASE, USED, ERR and ERRCODE alone. -/
theorem consistent_congr {s t : State} (hp : t.phase = s.phase) (hu : t.used = s.used) (he : t.err = s.err)
    (hc : t.errCode = s.errCode) : t.consistent = s.consistent := by
  simp only [State.consistent, hp, hu, he, hc]

/-- What comes next does not matter for consistency. -/
@[simp] theorem consistent_inputs (s : State) (rest : List Event) :
    (withInputs rest s).consistent = s.consistent := rfl

@[simp] theorem consistent_respond (r : BusResponse) (s : State) : (respond r s).consistent = s.consistent := rfl
@[simp] theorem consistent_drawn (s : State) : (drawn s).consistent = s.consistent := rfl

/-- The engine's step runs exactly on a consistent state and an accepted command, and ends with nothing pending. -/
theorem perform_eq_next (i : Instr) (f : State → State) (s t : State) :
    perform i f s = .next t ↔
      s.consistent = true ∧ i.wf = true ∧ allowed i s.phase = true ∧ t = { f s with pending := none } := by
  unfold perform
  cases s.consistent <;> cases i.wf <;> cases allowed i s.phase <;> simp [eq_comm]

/-- The engine's step on a consistent state and an accepted command. -/
theorem perform_accepted {i : Instr} {f : State → State} {s : State} (hc : s.consistent = true) (hw : i.wf = true)
    (ha : allowed i s.phase = true) : perform i f s = .next { f s with pending := none } :=
  (perform_eq_next i f s _).2 ⟨hc, hw, ha, rfl⟩

/-- The engine's step never refuses. -/
theorem perform_ne_refused (i : Instr) (f : State → State) (s : State) (r : Refusal) : perform i f s ≠ .refused r := by
  unfold perform
  cases s.consistent <;> cases i.wf <;> cases allowed i s.phase <;> simp

/-- The effect of a command, before PENDING is cleared. -/
def effectOf : Instr → State → State
  | .init => initEffect
  | .update n => updateEffect n
  | .final => finalEffect

/-- Each command's meaning is the engine's step with its effect. -/
theorem exec_eq_perform (i : Instr) (s : State) : exec i s = perform i (effectOf i) s := by
  cases i <;> rfl

/-- What a command's meaning answers when it answers a next state. -/
theorem exec_eq_next (i : Instr) (s t : State) :
    exec i s = .next t ↔
      s.consistent = true ∧ i.wf = true ∧ allowed i s.phase = true ∧ t = { effectOf i s with pending := none } := by
  rw [exec_eq_perform, perform_eq_next]

/-- No command is refused. -/
theorem exec_ne_refused (i : Instr) (s : State) (r : Refusal) : exec i s ≠ .refused r :=
  exec_eq_perform i s ▸ perform_ne_refused i (effectOf i) s r

/-- The engine's turn outside reset: it performs what is pending, or does nothing. -/
theorem engineTurn_cases {s t : State} (h : engineTurn s = .next t) :
    ((s.resetAsserted = true ∨ s.pending = none) ∧ t = s) ∨
      ∃ i, s.resetAsserted = false ∧ s.pending = some i ∧ exec i s = .next t := by
  unfold engineTurn at h
  split at h <;> rename_i hr
  · injection h with h
    exact .inl ⟨.inl hr, h.symm⟩
  · split at h <;> rename_i hp
    · injection h with h
      exact .inl ⟨.inr hp, h.symm⟩
    · exact .inr ⟨_, by simpa using hr, hp, h⟩

/-! ### The error record and command issue -/

/-- What a CMD write can do (R88). -/
theorem issueCommand_cases (v : Word) (s : State) :
    (s.busy = true ∧ issueCommand v s = raiseCmdError .busyWrite s) ∨
    (s.busy = false ∧ ∃ c, decode v = .illegal c ∧ issueCommand v s = raiseCmdError c s) ∨
    (s.busy = false ∧ ∃ i, decode v = .command i ∧ allowed i s.phase = false ∧
      issueCommand v s = raiseCmdError .sequence s) ∨
    (s.busy = false ∧ ∃ i, decode v = .command i ∧ allowed i s.phase = true ∧
      issueCommand v s = { s with pending := some i }) := by
  unfold issueCommand
  cases hb : s.busy
  · cases hd : decode v with
    | illegal c => simp
    | command i => cases ha : allowed i s.phase <;> simp [ha]
  · simp

/-! ### The register map -/

/-- Every register is found at its offset (R32). -/
theorem regAt_regOffset (r : Reg) : regAt (regOffset r) = some r := by
  cases r with
  | cmd => rfl
  | status => rfl
  | countLo => rfl
  | countHi => rfl
  | h i => revert i; decide
  | data j => revert j; decide

/-- A 32-bit read of a register reaches it. -/
@[simp] theorem accessTarget_read (r : Reg) : accessTarget (.read .bits32 (regOffset r)) = some r :=
  regAt_regOffset r

/-- A 32-bit write of a register reaches it if it takes writes. -/
@[simp] theorem accessTarget_write (r : Reg) (v : Word) :
    accessTarget (.write .bits32 (regOffset r) v) = if r.writable then some r else none := by
  simp only [accessTarget, regAt_regOffset, Option.filter_some]

/-! ### One access, one event, one step -/

/-- What a host access can do when it answers a next state. -/
theorem hostAccess_cases {a : Access} {s t : State} (h : hostAccess a s = .next t) :
    (s.resetAsserted = true ∧ accessTarget a = none ∧ t = busErrorResponse a.offset s) ∨
    (s.resetAsserted = true ∧ ∃ w off, a = .read w off ∧
      t = respond (.readData (Config.unspecifiedRead s.draws)) (drawn s)) ∨
    (s.resetAsserted = false ∧ s.consistent = true ∧ t = accessWindow a s) := by
  unfold hostAccess at h
  split at h <;> rename_i hr
  · unfold accessInReset at h
    split at h
    · injection h with h
      exact .inl ⟨hr, ‹_›, h.symm⟩
    · split at h
      · injection h with h
        exact .inr (.inl ⟨hr, _, _, rfl, h.symm⟩)
      · exact absurd h (by simp)
  · split at h <;> rename_i hc
    · injection h with h
      exact .inr (.inr ⟨by simpa using hr, hc, h.symm⟩)
    · exact absurd h (by simp)

/-- What an access does outside reset. -/
theorem accessWindow_cases (a : Access) (s : State) :
    (accessTarget a = none ∧ accessWindow a s = busErrorResponse a.offset s) ∨
    (∃ w off r, a = .read w off ∧ accessTarget a = some r ∧ accessWindow a s = readRegister r s) ∨
    (∃ w off v r, a = .write w off v ∧ accessTarget a = some r ∧ accessWindow a s = writeRegister r v s) := by
  unfold accessWindow
  cases ha : accessTarget a with
  | none => exact .inl ⟨rfl, rfl⟩
  | some r =>
    cases a with
    | read w off => exact .inr (.inl ⟨w, off, r, rfl, rfl, rfl⟩)
    | write w off v => exact .inr (.inr ⟨w, off, v, r, rfl, rfl, rfl⟩)

/-- What a step can do when it answers a next state: the engine's turn with nothing to come, or the next event. -/
theorem step_cases {s t : State} (h : step s = .next t) :
    (s.inputs = [] ∧ engineTurn s = .next t) ∨
    ∃ e rest, s.inputs = e :: rest ∧
      ((∃ a, e = .access a ∧ hostAccess a (withInputs rest s) = .next t) ∨
       (e = .engineTurn ∧ engineTurn (withInputs rest s) = .next t) ∨
       (e = .resetAssert ∧ t = applyReset (withInputs rest s)) ∨
       (e = .resetRelease ∧ t = releaseReset (withInputs rest s))) := by
  unfold step runNext at h
  split at h
  · exact .inl ⟨‹_›, h⟩
  · rename_i e rest hi
    refine .inr ⟨e, rest, hi, ?_⟩
    cases e with
    | access a => exact .inl ⟨a, rfl, h⟩
    | engineTurn => exact .inr (.inl ⟨rfl, h⟩)
    | resetAssert => injection h with h; exact .inr (.inr (.inl ⟨rfl, h.symm⟩))
    | resetRelease => injection h with h; exact .inr (.inr (.inr ⟨rfl, h.symm⟩))

end Sys2Proof.Machine
end

