-- ==== Sys2Proof/Laws/Engine.lean ====
section
/-! SUPPORT. States that are the same engine, the decoder's commands, and what the invariant needs of an operation. -/

namespace Sys2Proof.Machine

/-- A state is the same engine as itself. -/
theorem SameEngine.refl (s : State) : SameEngine s s := ⟨⟨rfl, rfl, rfl, rfl, rfl, rfl⟩, rfl, rfl, rfl, rfl⟩

/-- The bus's answer, a draw and the events to come are no part of the engine. -/
theorem SameEngine.outside (s : State) (i : List Event) (r : List BusResponse) (d : Nat) :
    SameEngine s { s with inputs := i, responses := r, draws := d } :=
  ⟨⟨rfl, rfl, rfl, rfl, rfl, rfl⟩, rfl, rfl, rfl, rfl⟩

/-- A register read leaves the engine as it is (R35). -/
theorem sameEngine_readRegister (r : Reg) (s : State) : SameEngine s (readRegister r s) := by
  constructor <;> first | constructor <;> simp | simp

/-- A bus error leaves the engine as it is (R104). -/
theorem sameEngine_busError (off : BitVec 8) (s : State) : SameEngine s (busErrorResponse off s) :=
  SameEngine.outside s s.inputs _ s.draws

/-- The invariant is about the engine alone. -/
theorem SameEngine.inv {s t : State} (h : SameEngine s t) (hs : s.Inv) : t.Inv where
  consistent := (consistent_congr h.phase h.used h.err h.errCode).trans hs.consistent
  recorded := by rw [h.err, h.errCode]; exact hs.recorded
  accepted := by rw [h.pending, h.phase]; exact hs.accepted
  length := by rw [h.lovf, h.count]; exact hs.length
  tail := by rw [h.used, h.count]; exact hs.tail
  held := fun hr => by
    have k := hs.held (h.resetAsserted ▸ hr)
    exact ⟨⟨h.hash.trans k.hash, h.buf.trans k.buf, h.count.trans k.count, h.used.trans k.used, h.lovf.trans k.lovf,
      h.phase.trans k.phase⟩, h.err.trans k.err, h.errCode.trans k.errCode, h.pending.trans k.pending⟩

/-- When a word decodes to a command (R51). -/
theorem decode_eq_command (v : Word) (i : Instr) :
    decode v = .command i ↔ rsv1Field v = 0 ∧ rsv0Field v = 0 ∧
      ((i = .init ∧ opField v = 1 ∧ countField v = 0) ∨ (i = .final ∧ opField v = 3 ∧ countField v = 0) ∨
        (i = .update (countField v) ∧ opField v = 2 ∧ (countField v).toNat ≤ 64)) := by
  unfold decode
  split_ifs with h1 h2 h3 h4 h5 <;> simp_all <;> tauto

/-- The engine runs a command in every consistent state whose phase allows it. -/
theorem exec_accepted {i : Instr} {s : State} (hc : s.consistent = true) (hw : i.wf = true)
    (ha : allowed i s.phase = true) : exec i s = .next { effectOf i s with pending := none } :=
  (exec_eq_next i s _).2 ⟨hc, hw, ha, rfl⟩

/-- A register is found at its own offset alone (R32). -/
theorem regOffset_of_regAt (off : BitVec 8) (r : Reg) (h : regAt off = some r) : regOffset r = off := by
  have key : ∀ off : BitVec 8, (regAt off).all (fun r => regOffset r == off) = true := by decide +kernel
  have := key off
  rw [h] at this
  simpa using this

/-- The step of an access outside reset, in a consistent state. -/
theorem step_of_accessNext {a : Access} {rest : List Event} {s : State} (h : AccessNext a rest s) :
    step s = .next (accessWindow a (withInputs rest s)) := by
  simp only [step, runNext, h.inputs, handleEvent, hostAccess, withInputs_resetAsserted, h.released,
    consistent_inputs, h.consistent, if_true, Bool.false_eq_true, if_false]

/-- A 32-bit read of a register is its read. -/
theorem accessWindow_read (r : Reg) (s : State) :
    accessWindow (.read .bits32 (regOffset r)) s = readRegister r s := by
  simp only [accessWindow, accessTarget_read]

/-- A 32-bit write of a register is its write; a read-only register answers a bus error. -/
theorem accessWindow_write (r : Reg) (v : Word) (s : State) :
    accessWindow (.write .bits32 (regOffset r) v) s = writeRegister r v s := by
  simp only [accessWindow, accessTarget_write]
  cases r <;> rfl

/-- A step that leaves the engine's own registers as they are: PENDING, the session and the error record. -/
structure Quiet (s t : State) : Prop extends SameSession s t where
  err : t.err = s.err
  errCode : t.errCode = s.errCode
  pending : t.pending = s.pending

/-- The same engine is a quiet step. -/
theorem SameEngine.quiet {s t : State} (h : SameEngine s t) : Quiet s t :=
  ⟨h.toSameSession, h.err, h.errCode, h.pending⟩

/-- Nothing to come: taking the tail changes nothing. -/
theorem withInputs_tail_of_nil {s : State} (h : s.inputs = []) : withInputs s.inputs.tail s = s := by
  obtain ⟨⟩ := s
  subst h
  rfl

/-- Everything a step can do to the engine: reset, the engine's step, the writes of CMD, STATUS and DATA, or nothing. -/
theorem step_effect {s t : State} (h : step s = .next t) :
    (s.inputs.head? = some .resetAssert ∧ t = applyReset (withInputs s.inputs.tail s)) ∨
    (∃ i, s.engineNext ∧ s.pending = some i ∧ exec i (withInputs s.inputs.tail s) = .next t) ∨
    (∃ v, s.inputs.head? = some (hostWrite .cmd v) ∧ s.resetAsserted = false ∧
      t = respond .writeAck (issueCommand v (withInputs s.inputs.tail s))) ∨
    (∃ v, s.inputs.head? = some (hostWrite .status v) ∧ s.resetAsserted = false ∧
      t = respond .writeAck (writeStatus v (withInputs s.inputs.tail s))) ∨
    (∃ j v, s.inputs.head? = some (hostWrite (.data j) v) ∧ s.resetAsserted = false ∧
      t = respond .writeAck (writeData j v (withInputs s.inputs.tail s))) ∨
    Quiet s t := by
  have turn (u : State) (hu : u = (withInputs s.inputs.tail s))
      (he : s.inputs = [] ∨ s.inputs.head? = some .engineTurn) (ht : engineTurn u = .next t) :
      (∃ i, s.engineNext ∧ s.pending = some i ∧ exec i (withInputs s.inputs.tail s) = .next t) ∨ Quiet s t := by
    subst hu
    obtain ⟨-, rfl⟩ | ⟨i, hr, hp, hx⟩ := engineTurn_cases ht
    · exact .inr (SameEngine.outside s _ _ _).quiet
    · exact .inl ⟨i, ⟨hr, he⟩, hp, hx⟩
  obtain ⟨hi, ht⟩ | ⟨e, rest, hi, ht⟩ := step_cases h
  · rcases turn s (withInputs_tail_of_nil hi).symm (.inl hi) ht with h | h
    · exact .inr (.inl h)
    · exact .inr (.inr (.inr (.inr (.inr h))))
  · have hhead : s.inputs.head? = some e := by rw [hi]; rfl
    have htail : s.inputs.tail = rest := by rw [hi]; rfl
    obtain ⟨a, rfl, ht⟩ | ⟨rfl, ht⟩ | ⟨rfl, rfl⟩ | ⟨rfl, rfl⟩ := ht
    · have out : SameEngine s (withInputs rest s) := SameEngine.outside s rest s.responses s.draws
      obtain ⟨-, -, rfl⟩ | ⟨-, w, off, rfl, rfl⟩ | ⟨hr, hc, rfl⟩ := hostAccess_cases ht
      · exact .inr (.inr (.inr (.inr (.inr (SameEngine.outside s rest _ s.draws).quiet))))
      · exact .inr (.inr (.inr (.inr (.inr (SameEngine.outside s rest _ _).quiet))))
      · obtain ⟨-, hw⟩ | ⟨w, off, r, -, -, hw⟩ | ⟨w, off, v, r, rfl, ha, hw⟩ := accessWindow_cases a (withInputs rest s)
          <;> rw [hw]
        · exact .inr (.inr (.inr (.inr (.inr (SameEngine.outside s rest _ s.draws).quiet))))
        · have := sameEngine_readRegister r (withInputs rest s)
          exact .inr (.inr (.inr (.inr (.inr
            ⟨⟨this.hash, this.buf, this.count, this.used, this.lovf, this.phase⟩, this.err, this.errCode, this.pending⟩))))
        · have hoff : regOffset r = off ∧ w = .bits32 := by
            cases w <;> simp only [accessTarget, reduceCtorEq] at ha
            exact ⟨regOffset_of_regAt off r (Option.filter_eq_some_iff.1 ha).1, rfl⟩
          obtain ⟨rfl, rfl⟩ := hoff
          rw [htail, hhead]
          cases r with
          | cmd => exact .inr (.inr (.inl ⟨v, rfl, hr, rfl⟩))
          | status => exact .inr (.inr (.inr (.inl ⟨v, rfl, hr, rfl⟩)))
          | data j => exact .inr (.inr (.inr (.inr (.inl ⟨j, v, rfl, hr, rfl⟩))))
          | countLo => exact .inr (.inr (.inr (.inr (.inr (SameEngine.outside s rest _ s.draws).quiet))))
          | countHi => exact .inr (.inr (.inr (.inr (.inr (SameEngine.outside s rest _ s.draws).quiet))))
          | h i => exact .inr (.inr (.inr (.inr (.inr (SameEngine.outside s rest _ s.draws).quiet))))
    · rcases turn _ (by rw [htail]) (.inr hhead) ht with h | h
      · exact .inr (.inl h)
      · exact .inr (.inr (.inr (.inr (.inr h))))
    · exact .inl ⟨hhead, by rw [htail]⟩
    · exact .inr (.inr (.inr (.inr (.inr ⟨⟨rfl, rfl, rfl, rfl, rfl, rfl⟩, rfl, rfl, rfl⟩))))

end Sys2Proof.Machine
end

