-- ==== Sys2Proof/Laws/Padding.lean ====
section
/-! SUPPORT. What each loop of the padding generator leaves in each byte of the buffer. -/

namespace Sys2Proof.Machine

/-- A byte after one assignment. -/
theorem setByte_getElem (buf : Buffer) (a i : Nat) (b : Byte) (h : i < 128) :
    (buf.setIfInBounds a b)[i] = if a = i then b else buf[i] := by
  rw [Vector.getElem_setIfInBounds]

/-- `putBytes` writes its bytes from `a` on and leaves every other byte. -/
theorem putBytes_getElem (bs : List Byte) (a i : Nat) (buf : Buffer) (h : i < 128) :
    (putBytes a bs buf)[i] = if a ≤ i then (bs[i - a]?).getD buf[i] else buf[i] := by
  induction bs generalizing a buf with
  | nil => simp [putBytes]
  | cons b bs ih =>
    rw [putBytes, ih, setByte_getElem]
    rcases lt_trichotomy a i with hlt | rfl | hgt
    · have e : i - a = (i - (a + 1)) + 1 := by omega
      simp [Nat.succ_le_of_lt hlt, hlt.le, hlt.ne, e]
    · simp
    · simp [hgt.not_ge, hgt.ne', show ¬ a + 1 ≤ i by omega]

/-- `fillZeros` clears `k` bytes from `a` on and leaves every other byte. -/
theorem fillZeros_getElem (k a i : Nat) (buf : Buffer) (h : i < 128) :
    (fillZeros a k buf)[i] = if a ≤ i ∧ i < a + k then 0 else buf[i] := by
  induction k generalizing a buf with
  | zero => simp [fillZeros]
  | succ k ih =>
    rw [fillZeros, ih, setByte_getElem]
    by_cases h1 : a + 1 ≤ i ∧ i < a + 1 + k
    · rw [if_pos h1, if_pos (by omega)]
    · rw [if_neg h1]
      by_cases h2 : a = i
      · rw [if_pos h2, if_pos (by omega)]
      · rw [if_neg h2, if_neg (by omega)]

/-- The length field is eight bytes. -/
@[simp] theorem be64bytes_length (l : Count) : (be64bytes l).length = 8 := rfl

/-- A word is four bytes. -/
@[simp] theorem be32bytes_length (w : Word) : (be32bytes w).length = 4 := rfl

end Sys2Proof.Machine
end

