-- ==== Sys2Proof/Laws/PerInstr.lean ====
section
/-! SUPPORT. What every command's canonical word holds in each field of CMD32 (R48, R50). -/

namespace Sys2Proof.Laws.EncodeFields

/-- The fields of a command's word: OP is the command's own, N its byte count or 0, the reserved bits 0. -/
def Statement (i : Instr) : Prop :=
  rsv1Field (encode i) = 0 ∧ rsv0Field (encode i) = 0 ∧
    opField (encode i) = (match i with | .init => 1 | .update _ => 2 | .final => 3) ∧
    countField (encode i) = (match i with | .init => 0 | .update n => n | .final => 0)

theorem init : Statement .init := by simp only [Statement]; decide

theorem update (n : BitVec 7) : Statement (.update n) := by
  simp only [Statement]; revert n; decide +kernel

theorem final : Statement .final := by simp only [Statement]; decide

end Sys2Proof.Laws.EncodeFields
end

