-- ==== Sys2Proof/Laws/Schedule.lean ====
section
/-! SUPPORT. The loop of the schedule expander: it never changes a word it has produced. -/

namespace Sys2Proof.Machine

/-- The block gives sixteen words. -/
@[simp] theorem blockWords_length (b : Block) : (blockWords b).length = 16 := by
  simp [blockWords]

/-- The words so far stay as they are. -/
theorem extendSchedule_getElem? (k : Nat) (w : List Word) (t : Nat) (h : t < w.length) :
    (extendSchedule k w)[t]? = w[t]? := by
  induction k generalizing w with
  | zero => rfl
  | succ k ih =>
    rw [extendSchedule, ih _ (by simp; omega), List.getElem?_append_left h]

/-- The loop in two parts. -/
theorem extendSchedule_add (j k : Nat) (w : List Word) :
    extendSchedule (j + k) w = extendSchedule k (extendSchedule j w) := by
  induction j generalizing w with
  | zero => simp [extendSchedule]
  | succ j ih => rw [Nat.add_right_comm, extendSchedule, ih, extendSchedule]

/-- The feed-forward, word by word. -/
@[simp] theorem feedForward_getElem (hin v : HashWords) (i : Nat) (h : i < 8) :
    (feedForward hin v)[i] = add32 hin[i] v[i] := by
  simp [feedForward]

/-- A byte of the first block. -/
@[simp] theorem lowBlock_getElem (buf : Buffer) (i : Nat) (h : i < 64) : (lowBlock buf)[i] = buf[i] := by
  simp [lowBlock]

/-- A byte of the second block. -/
@[simp] theorem highBlock_getElem (buf : Buffer) (i : Nat) (h : i < 64) : (highBlock buf)[i] = buf[64 + i] := by
  simp [highBlock]

end Sys2Proof.Machine
end

