-- ==== Sys2Proof/Tests/Slice0.lean ====
section
/-! SUPPORT. The model's own tests, their expected values taken from spec/ (95_test_vectors.md and the examples of the
rules), and for each statement a concrete state that meets its hypotheses. -/

namespace Sys2Proof.Tests

open Sys2Proof Sys2Proof.Machine

/-! ### A small state, and what an outcome holds -/

/-- A state of the given phase, USED, COUNT, pending command and events to come; everything else as after reset. -/
def stateOf (phase : Phase) (used : BitVec 6) (count : Count) (pending : Option Instr) (inputs : List Event) : State :=
  { State.reset with phase := phase, used := used, count := count, pending := pending, inputs := inputs }

/-- An idle state in ABSORB with the given events to come. -/
def idle (inputs : List Event) : State := stateOf .absorb 0 0 none inputs

/-- The next state's field, if there is a next state. -/
def nextOf {α : Type} (f : State → α) : Host.Outcome State Fault Refusal → Option α
  | .next t => some (f t)
  | .fault _ => none
  | .refused _ => none

/-- The buffer filled from byte 0 on. -/
def bufOf (bytes : List Byte) : Buffer := putBytes 0 bytes (Vector.replicate 128 0x00)

/-! ### WellFormed and Decode -/

/-- R50: N = 65 is no operand of UPDATE. -/
theorem test_wf_refuses_count_65 : Instr.wf (.update 65) = false := by decide

/-- R50: N = 64 is. -/
theorem test_wf_takes_count_64 : Instr.wf (.update 64) = true := by decide

/-- R50, field by field: RSV1 ‖ N ‖ RSV0 ‖ OP. -/
theorem test_decode_init : decode (0#17 ++ 0#7 ++ 0#4 ++ 1#4) = .command .init := by decide

/-- R50, field by field, N = 56 (program P3). -/
theorem test_decode_update : decode (0#17 ++ 56#7 ++ 0#4 ++ 2#4) = .command (.update 56) := by decide

/-- R50, field by field. -/
theorem test_decode_final : decode (0#17 ++ 0#7 ++ 0#4 ++ 3#4) = .command .final := by decide

/-- L2 section 8: the rejected words of the table that `DecodedVectors` leaves out. -/
theorem test_decode_rejects :
    decode 0x00000004 = .illegal .illegalCmd ∧ decode 0x0000000F = .illegal .illegalCmd ∧
    decode 0x00000103 = .illegal .illegalCmd ∧ decode 0x00000012 = .illegal .illegalCmd ∧
    decode 0x00008002 = .illegal .illegalCmd ∧ decode 0x80000001 = .illegal .illegalCmd := by decide

/-- R50: the canonical words. -/
theorem test_encode_words :
    encode .init = 0x00000001 ∧ encode (.update 3) = 0x00000302 ∧ encode (.update 64) = 0x00004002 ∧
    encode .final = 0x00000003 := by decide

/-- The table's rows, through `decodeTableWord`. -/
theorem test_table_words :
    decodeTableWord 32 1 = some .init ∧ decodeTableWord 32 0x4002 = some (.update 64) ∧
    decodeTableWord 32 3 = some .final ∧ decodeTableWord 32 0x4102 = none := by decide

/-- Each row runs as the first command after reset. -/
theorem test_rows_run_after_reset :
    (nextOf State.phase (step (State.reset.withFetchWord 32 1)) = some .absorb) ∧
    (nextOf State.phase (step (State.reset.withFetchWord 32 0x302)) = some .partialBlock) ∧
    (nextOf State.phase (step (State.reset.withFetchWord 32 3)) = some .done) := by decide +kernel

/-! ### Primitives, schedule, round, compression (L2 sections 1, 3, 4) -/

/-- L2 section 1, x = 80000001. -/
theorem test_primitives :
    rotr 0x80000001 7 = 0x03000000 ∧ shr 0x80000001 3 = 0x10000000 ∧ smallSigma0 0x80000001 = 0x13006000 ∧
    smallSigma1 0x80000001 = 0x0020f000 ∧ bigSigma0 0x80000001 = 0x600c0600 ∧ bigSigma1 0x80000001 = 0x063000c0 ∧
    ch 0xf0f0f0f0 0xaaaaaaaa 0x55555555 = 0xa5a5a5a5 ∧ maj 0xf0f0f0f0 0xaaaaaaaa 0x55555555 = 0xf0f0f0f0 := by decide

/-- The padded "abc" block (L2 section 3). -/
def abcBlock : Block :=
  Vector.ofFn fun i => [0x61, 0x62, 0x63, 0x80].getD i.val (if i.val = 63 then 0x18 else 0x00)

/-- L2 section 3: words of the "abc" schedule. -/
theorem test_schedule_abc :
    (schedule abcBlock)[15] = 0x00000018 ∧ (schedule abcBlock)[17] = 0x000f0000 ∧
    (schedule abcBlock)[30] = 0x702138a4 ∧ (schedule abcBlock)[63] = 0x12b1edeb := by decide +kernel

/-- R74's example: round 0 of the "abc" block. -/
theorem test_round_zero :
    roundStep initialHash 0x428a2f98 0x61626380 =
      #v[0x5d6aebcd, 0x6a09e667, 0xbb67ae85, 0x3c6ef372, 0xfa2a4622, 0x510e527f, 0x9b05688c, 0x1f83d9ab] := by
  decide +kernel

/-- R75's example: the 64 zero bytes. -/
theorem test_compress_zeros :
    compress initialHash (Vector.replicate 64 0x00) =
      #v[0xda5698be, 0x17b9b469, 0x62335799, 0x779fbeca, 0x8ce5d491, 0xc0d26243, 0xbafef9ea, 0x1837a9d8] := by
  decide +kernel

/-! ### Counter, padding, STATUS (L2 sections 5, 6) -/

/-- L2 section 5: the rows on the edge of LOVF and of 2^64. -/
theorem test_counter_edges :
    (nextOf (fun t => (t.count, t.lovf)) (execUpdate 64 (stateOf .absorb 0 0x1FFFFFFFFFFFFFC0 none [])) =
      some (0x2000000000000000, true)) ∧
    (nextOf (fun t => (t.count, t.lovf)) (execUpdate 64 (stateOf .absorb 0 0x1FFFFFFFFFFFFFBF none [])) =
      some (0x1FFFFFFFFFFFFFFF, false)) ∧
    (nextOf statusWord (execUpdate 1 (stateOf .absorb 0 0xFFFFFFFFFFFFFFFF none [])) = some 0x0001000A) := by
  decide +kernel

/-- L2 section 6: used = 56 and 63. -/
theorem test_padding_two_blocks :
    (pad 56 448 (bufOf (List.replicate 56 0xaa))).2 = 2 ∧
    (pad 56 448 (bufOf (List.replicate 56 0xaa))).1.toList =
      List.replicate 56 0xaa ++ [0x80] ++ List.replicate 69 0x00 ++ [0x01, 0xc0] ∧
    (pad 63 504 (bufOf (List.replicate 63 0xaa))).1.toList =
      List.replicate 63 0xaa ++ [0x80] ++ List.replicate 62 0x00 ++ [0x01, 0xf8] := by decide +kernel

/-- L2 section 6: used = 55 is the largest one-block case. -/
theorem test_padding_one_block :
    (pad 55 440 (bufOf (List.replicate 55 0xaa))).2 = 1 ∧
    ((pad 55 440 (bufOf (List.replicate 55 0xaa))).1.toList.take 64) =
      List.replicate 55 0xaa ++ [0x80, 0, 0, 0, 0, 0, 0, 0x01, 0xb8] := by decide +kernel

/-! ### The commands -/

/-- R91: INIT abandons a session and keeps the error record. -/
theorem test_init_keeps_the_error_record :
    nextOf (fun t => (t.phase, t.used, t.count, t.lovf, t.errCode))
      (execInit { stateOf .partialBlock 3 3 (some .init) [] with lovf := true, err := true, errCode := 4 }) =
    some (.absorb, 0, 0, false, 4) := by decide

/-- R92's example: 64 bytes 'a'. -/
theorem test_update_full_block :
    nextOf (fun t => (t.hash, t.count)) (execUpdate 64 { idle [] with buf := bufOf (List.replicate 64 0x61) }) =
    some (#v[0xdf5bb81c, 0xe81e0626, 0xfb45a894, 0x4fd40f31, 0xb25e6816, 0xd6d499c1, 0xab904929, 0x00635e66], 64) := by
  decide +kernel

/-- Program P2: UPDATE 3 compresses nothing and STATUS reads 0x00030002. -/
theorem test_update_short_block :
    nextOf (fun t => (t.hash, statusWord t)) (execUpdate 3 { idle [] with buf := bufOf [0x61, 0x62, 0x63] }) =
    some (initialHash, 0x00030002) := by decide +kernel

/-- Program P2 with the stray byte 0xff: FINAL gives the digest of "abc". -/
theorem test_final_abc :
    nextOf (fun t => (t.hash, statusWord t))
      (execFinal { stateOf .partialBlock 3 3 none [] with buf := bufOf [0x61, 0x62, 0x63, 0xff] }) =
    some (#v[0xba7816bf, 0x8f01cfea, 0x414140de, 0x5dae2223, 0xb00361a3, 0x96177a9c, 0xb410ff61, 0xf20015ad],
      0x00030004) := by decide +kernel

/-- L2 section 7, m = 63: two blocks, and DATA15 reads 3c3d3e80 afterwards. -/
theorem test_final_two_blocks :
    nextOf (fun t => (t.hash, dataWord 15 t.buf))
      (execFinal { stateOf .partialBlock 63 63 none [] with
        buf := bufOf ((List.range 63).map fun k => BitVec.ofNat 8 k) }) =
    some (#v[0x29af2686, 0xfd53374a, 0x36b08466, 0x94cc3421, 0x77e428d1, 0x647515f0, 0x78784d69, 0xcdb9e488],
      0x3c3d3e80) := by decide +kernel

/-! ### The window -/

/-- Program P5, row 10: a DATA write while busy is rejected and STATUS then has code 4. -/
theorem test_data_write_while_busy :
    nextOf (fun t => (t.errCode, t.buf[4], t.pending))
      (step (stateOf .absorb 0 0 (some (.update 3)) [hostWrite (.data 1) 0xdeadbeef])) =
    some (4, 0x00, some (.update 3)) := by decide

/-- R103's example: UPDATE 65 written in DONE raises BAD_COUNT. -/
theorem test_bad_count_before_sequence :
    nextOf State.errCode (step (stateOf .done 0 0 none [hostWrite .cmd 0x00004102])) = some 2 := by decide

/-- L2 section 10: an access of each kind that answers a bus error. -/
theorem test_bus_errors :
    [Access.read .bits32 0x10, .read .bits32 0xFC, .write .bits32 0x08 1, .write .bits32 0x20 1, .read .bits32 0x02,
      .read .bits32 0x41, .write .bits8 0x40 1, .read .bits16 0x04].map
      (fun a => nextOf State.responses (step (idle [.access a]))) =
    [0x10, 0xFC, 0x08, 0x20, 0x02, 0x41, 0x40, 0x04].map fun off => some [BusResponse.busError off] := by
  decide +kernel

/-- R25: a read of CMD gives 0, and R36's example: DATA0 <- 0x61626300 reads back. -/
theorem test_reads :
    nextOf State.responses (step (idle [hostRead .cmd])) = some [.readData 0] ∧
    nextOf (fun t => t.buf.toList.take 5) (step (idle [hostWrite (.data 0) 0x61626300])) =
      some [0x61, 0x62, 0x63, 0x00, 0x00] := by decide +kernel

/-! ### Each statement's hypotheses are met: encoding and primitives -/

theorem witness_DecodeOfEncode : Instr.wf (.update 0) = true ∧ Instr.wf (.update 64) = true := by decide

theorem witness_EncodeOfDecode : decode 0x00004002 = .command (.update 64) := by decide

theorem witness_WordsOfEachCommand :
    (0x00000000 : Word).extractLsb' 0 4 = 0x0 ∧ 0x4 ≤ ((0x00000004 : Word).extractLsb' 0 4).toNat ∧
    0x4 ≤ ((0x0000000F : Word).extractLsb' 0 4).toNat := by decide

theorem witness_RotateRight : (0 : Nat) < 32 ∧ (31 : Nat) < 32 := by decide

theorem witness_ChooseBits : (0 : Nat) < 32 ∧ (31 : Nat) < 32 := by decide

theorem witness_MajorityBits : (0 : Nat) < 32 ∧ (31 : Nat) < 32 := by decide

theorem witness_ScheduleRecurrence : (15 : Nat) < 16 ∧ (16 : Nat) ≤ 16 ∧ (16 : Nat) ≤ 63 ∧ (63 : Nat) < 64 := by decide

theorem witness_CompressRoundsAndFeedForward : (63 : Nat) < 64 ∧ (7 : Nat) < 8 := by decide

theorem witness_RoundWords : ∃ (v : HashWords) (k w t1 t2 : Word),
    t1 = v[7] + bigSigma1 v[4] + ch v[4] v[5] v[6] + k + w ∧ t2 = bigSigma0 v[0] + maj v[0] v[1] v[2] :=
  ⟨initialHash, 0x428a2f98, 0x61626380, _, _, rfl, rfl⟩

/-- A fresh session. -/
theorem witness_CountAddWrapsAndFlags : State.reset.count = 0 := rfl

theorem witness_PaddingFillsWholeBlocks : (0 : Nat) ≤ 55 ∧ (55 : Nat) ≤ 55 ∧ (56 : Nat) ≤ 56 ∧ (63 : Nat) ≤ 63 := by
  decide

theorem witness_StaleBytesDoNotReachTheDigest :
    ∃ t t', exec .final (stateOf .partialBlock 56 56 none []) = .next t ∧
      exec .final { stateOf .partialBlock 56 56 none [] with buf := bufOf (List.replicate 56 0 ++ [0xff]) } = .next t' :=
  ⟨_, _, exec_accepted (by decide) rfl rfl, exec_accepted (by decide +kernel) rfl rfl⟩

/-! ### The commands and the step -/

theorem witness_StepRunsTheDecodedCommand :
    (decode 0x00000302 = .command (.update 3) ∧ allowed (.update 3) State.reset.phase = true) ∧
    (∃ s : State, ∃ rest, s.pending = some .init ∧ s.resetAsserted = false ∧ s.inputs = .engineTurn :: rest) ∧
    (∃ s : State, s.pending = some .final ∧ s.resetAsserted = false ∧ s.inputs = []) :=
  ⟨by decide, ⟨stateOf .done 0 0 (some .init) [.engineTurn], [], rfl, rfl, rfl⟩,
    ⟨stateOf .absorb 0 0 (some .final) [], rfl, rfl, rfl⟩⟩

theorem witness_EngineRestsWhenNothingIsPending :
    ((idle [.engineTurn]).pending = none ∧ (idle [.engineTurn]).inputs = .engineTurn :: []) ∧
    ((idle []).pending = none ∧ (idle []).inputs = []) ∧
    ({ idle [.engineTurn] with resetAsserted := true } : State).resetAsserted = true := ⟨⟨rfl, rfl⟩, ⟨rfl, rfl⟩, rfl⟩

theorem witness_CommandIssue :
    (AccessNext (.write .bits32 0x00 3) [] (stateOf .absorb 0 0 (some .init) [hostWrite .cmd 3]) ∧
      (stateOf .absorb 0 0 (some .init) [hostWrite .cmd 3]).busy = true) ∧
    (AccessNext (.write .bits32 0x00 0x4102) [] (idle [hostWrite .cmd 0x4102]) ∧ decode 0x4102 = .illegal .badCount) ∧
    (AccessNext (.write .bits32 0x00 3) [] (stateOf .done 0 0 none [hostWrite .cmd 3]) ∧ allowed .final .done = false) ∧
    (AccessNext (.write .bits32 0x00 3) [] (idle [hostWrite .cmd 3]) ∧ decode 3 = .command .final ∧
      allowed .final .absorb = true ∧ (idle [hostWrite .cmd 3]).busy = false) :=
  ⟨⟨⟨rfl, rfl, by decide⟩, rfl⟩, ⟨⟨rfl, rfl, by decide⟩, by decide⟩, ⟨⟨rfl, rfl, by decide⟩, rfl⟩,
    ⟨⟨rfl, rfl, by decide⟩, by decide, rfl, rfl⟩⟩

theorem witness_InitStartsASession :
    (stateOf .absorb 0 0 none []).consistent = true ∧ (stateOf .partialBlock 63 63 none []).consistent = true ∧
    (stateOf .done 63 63 none []).consistent = true := by decide

theorem witness_UpdateFullBlock : (idle []).consistent = true ∧ (idle []).phase = .absorb := by decide

theorem witness_UpdateShortBlock :
    (idle []).consistent = true ∧ (idle []).phase = .absorb ∧ (0 : BitVec 7).toNat < 64 ∧ (63 : BitVec 7).toNat < 64 := by
  decide

theorem witness_FinalOneBlock :
    ((idle []).consistent = true ∧ (idle []).phase ≠ .done ∧ (idle []).used.toNat ≤ 55) ∧
    ((stateOf .partialBlock 55 55 none []).consistent = true ∧ (stateOf .partialBlock 55 55 none []).phase ≠ .done ∧
      (stateOf .partialBlock 55 55 none []).used.toNat ≤ 55) := by decide

theorem witness_FinalTwoBlocks :
    ((stateOf .partialBlock 56 56 none []).consistent = true ∧ (stateOf .partialBlock 56 56 none []).phase ≠ .done ∧
      56 ≤ (stateOf .partialBlock 56 56 none []).used.toNat) ∧
    ((stateOf .partialBlock 63 63 none []).consistent = true ∧ (stateOf .partialBlock 63 63 none []).phase ≠ .done ∧
      56 ≤ (stateOf .partialBlock 63 63 none []).used.toNat) := by decide

/-- A state after one full block that meets the invariant. -/
theorem absorb_inv : (stateOf .absorb 0 64 none []).Inv :=
  ⟨by decide, by decide, by rintro i ⟨⟩, by decide, by decide, by rintro ⟨⟩⟩

/-- Both clauses: a state that meets the invariant, and one that does not, at the length where LOVF comes to differ. -/
theorem witness_FinalAfterEmptyUpdate :
    ((stateOf .absorb 0 64 none []).Inv ∧ (stateOf .absorb 0 64 none []).consistent = true ∧
      (stateOf .absorb 0 64 none []).phase = .absorb) ∧
    ((stateOf .absorb 0 0x2000000000000000 none []).consistent = true ∧
      (stateOf .absorb 0 0x2000000000000000 none []).phase = .absorb) :=
  ⟨⟨absorb_inv, rfl, rfl⟩, rfl, rfl⟩

/-- A state after a FINAL that meets the invariant. -/
theorem done_inv (inputs : List Event) : (stateOf .done 63 63 none inputs).Inv :=
  (SameEngine.outside (stateOf .done 63 63 none []) inputs [] 0).inv
    ⟨by decide, by decide, by rintro i ⟨⟩, by decide, by decide, by rintro ⟨⟩⟩

/-- A state with a pending command that meets the invariant: FINAL accepted in PARTIAL. -/
theorem pending_inv (inputs : List Event) : (stateOf .partialBlock 63 63 (some .final) inputs).Inv :=
  (SameEngine.outside (stateOf .partialBlock 63 63 (some .final) []) inputs [] 0).inv
    ⟨by decide, by decide, by rintro i ⟨⟩; exact ⟨rfl, rfl⟩, by decide, by decide, by rintro ⟨⟩⟩

theorem witness_EngineStepNeverFails :
    ((stateOf .partialBlock 63 63 (some .final) []).Inv ∧
      (stateOf .partialBlock 63 63 (some .final) []).pending = some .final) ∧
    (stateOf .absorb 1 1 none []).consistent = false ∧
    ({ idle [] with err := true, errCode := 5 } : State).consistent = false := ⟨⟨pending_inv [], rfl⟩, by decide, by decide⟩

theorem witness_UnacceptedCommandFaults :
    (idle []).consistent = true ∧ Instr.wf (.update 65) = false ∧
    (stateOf .done 0 0 none []).consistent = true ∧ allowed (.update 0) .done = false ∧
    allowed .final .done = false := by decide

/-! ### The register window -/

/-- Any access can be the next one of an idle state. -/
theorem accessNext_idle (a : Access) : AccessNext a [] (idle [.access a]) := ⟨rfl, rfl, rfl⟩

/-- Any access can be the next one of a busy state. -/
theorem accessNext_busy (a : Access) : AccessNext a [] (stateOf .absorb 0 0 (some (.update 64)) [.access a]) :=
  ⟨rfl, rfl, rfl⟩

theorem witness_RegisterMap :
    (0x01 : BitVec 8).toNat % 4 ≠ 0 ∧ 0x10 ≤ (0x10 : BitVec 8).toNat ∧ (0x1C : BitVec 8).toNat ≤ 0x1C ∧
    0x80 ≤ (0x80 : BitVec 8).toNat ∧ 0x80 ≤ (0xFC : BitVec 8).toNat := by decide

theorem witness_BusErrors :
    AccessNext (.read .bits64 0x40) [] (idle [.access (.read .bits64 0x40)]) ∧
    AccessNext (.write .bits32 0x3C 1) [] (idle [.access (.write .bits32 0x3C 1)]) ∧
    AccessNext (.read .bits32 (regOffset (.data 15))) [] (idle [hostRead (.data 15)]) ∧
    (AccessNext (.write .bits32 (regOffset .status) 1) [] (idle [hostWrite .status 1]) ∧ Reg.status.writable = true) ∧
    (∃ t, step (idle [hostWrite .status 1]) = .next t) :=
  ⟨accessNext_idle _, accessNext_idle _, accessNext_idle _, ⟨accessNext_idle _, rfl⟩, ⟨_, rfl⟩⟩

theorem witness_IdleReads :
    (∀ off, AccessNext (.read .bits32 off) [] (idle [.access (.read .bits32 off)])) ∧ (idle []).busy = false ∧
    (0x3C : BitVec 8).toNat = 0x20 + 4 * 7 ∧ (0x7C : BitVec 8).toNat = 0x40 + 4 * 15 :=
  ⟨fun _ => accessNext_idle _, rfl, rfl, rfl⟩

theorem witness_StatusFields : (stateOf .done 63 63 none []).busy = false := by decide

theorem witness_BusyReads (r : Reg) :
    AccessNext (.read .bits32 (regOffset r)) [] (stateOf .absorb 0 0 (some (.update 64)) [hostRead r]) ∧
      (stateOf .absorb 0 0 (some (.update 64)) [hostRead r]).busy = true := ⟨accessNext_busy _, rfl⟩

theorem witness_ReadsHaveNoSideEffects :
    (idle [.access (.read .bits8 0xFF)]).consistent = true ∧
    ({ idle [hostRead .cmd] with resetAsserted := true } : State).consistent = true := by decide

theorem witness_DataWrite (j : Fin 16) (v : Word) :
    AccessNext (.write .bits32 (BitVec.ofNat 8 (0x40 + 4 * j.val)) v) [] (idle [hostWrite (.data j) v]) ∧
      (idle [hostWrite (.data j) v]).busy = false := ⟨accessNext_idle _, rfl⟩

theorem witness_DataWordIsScheduleWord : (idle []).busy = false := by decide

theorem witness_StatusWrite :
    (AccessNext (.write .bits32 0x04 0x10) [] (idle [hostWrite .status 0x10]) ∧ (0x10 : Word).getLsbD 4 = true) ∧
    (AccessNext (.write .bits32 0x04 0xFFFFFFEF) [] (stateOf .absorb 0 0 (some (.update 64)) [hostWrite .status 0xFFFFFFEF]) ∧
      (0xFFFFFFEF : Word).getLsbD 4 = false) := ⟨⟨accessNext_idle _, by decide⟩, ⟨accessNext_busy _, by decide⟩⟩

theorem witness_DigestReadout (i : Fin 8) :
    AccessNext (.read .bits32 (BitVec.ofNat 8 (0x20 + 4 * i.val))) [] (idle [hostRead (.h i)]) ∧
      (idle [hostRead (.h i)]).busy = false := ⟨accessNext_idle _, rfl⟩

theorem witness_FirstErrorIsKept :
    (idle []).err = false ∧ ({ idle [] with err := true, errCode := 2 } : State).err = true := by decide

theorem witness_BusyWritesAreRejected (v : Word) (j : Fin 16) (r : Reg) :
    AccessNext (.write .bits32 0x00 v) [] (stateOf .absorb 0 0 (some (.update 64)) [hostWrite .cmd v]) ∧
    AccessNext (.write .bits32 (regOffset (.data j)) v) [] (stateOf .absorb 0 0 (some (.update 64)) [hostWrite (.data j) v]) ∧
    AccessNext (.write .bits32 0x04 v) [] (stateOf .absorb 0 0 (some (.update 64)) [hostWrite .status v]) ∧
    AccessNext (.read .bits32 (regOffset r)) [] (stateOf .absorb 0 0 (some (.update 64)) [hostRead r]) ∧
    (stateOf .absorb 0 0 (some (.update 64)) [hostRead r]).busy = true :=
  ⟨accessNext_busy _, accessNext_busy _, accessNext_busy _, accessNext_busy _, rfl⟩

/-- The word of each cause of R103: reserved bit with N = 65, UPDATE 65, UPDATE 64 in DONE, FINAL in DONE, INIT. -/
theorem witness_RejectionPriority (v : Word) :
    AccessNext (.write .bits32 0x00 v) [] (stateOf .done 0 0 none [hostWrite .cmd v]) ∧
    (stateOf .done 0 0 none [hostWrite .cmd v]).err = false ∧
    (0x0000C102 : Word).extractLsb' 15 17 ≠ 0 ∧
    ((0x00004102 : Word).extractLsb' 0 4 = 2 ∧ 65 ≤ ((0x00004102 : Word).extractLsb' 8 7).toNat) ∧
    (0x00004002 : Word).extractLsb' 0 4 = 2 ∧ (0x00000003 : Word).extractLsb' 0 4 = 3 ∧
    (0x00000001 : Word).extractLsb' 0 4 = 1 := ⟨⟨rfl, rfl, rfl⟩, rfl, by decide, by decide, by decide, by decide, by decide⟩

theorem witness_ErrorRecordWriters :
    (∃ t, step { idle [hostWrite .status 0x10] with err := true, errCode := 3 } = .next t ∧ t.err = false) ∧
    (∃ t, step { idle [hostWrite .cmd 0] with err := true, errCode := 3 } = .next t ∧ t.err = true) ∧
    (∃ t, step { idle [.resetAssert] with err := true, errCode := 3 } = .next t ∧ t.err = false) ∧
    (∃ t, step (stateOf .absorb 0 0 (some .init) [hostWrite (.data 15) 0]) = .next t ∧ t.err = true) ∧
    (∃ t, step (idle [hostWrite .cmd 0]) = .next t ∧ t.err = true) :=
  ⟨⟨_, rfl, rfl⟩, ⟨_, rfl, rfl⟩, ⟨_, rfl, rfl⟩, ⟨_, rfl, rfl⟩, ⟨_, rfl, rfl⟩⟩

/-! ### Reset -/

theorem witness_ResetDiscardsThePendingCommand :
    (stateOf .absorb 0 0 (some (.update 64)) [.resetAssert]).inputs = .resetAssert :: [] := rfl

/-- The state while reset is asserted meets the invariant. -/
theorem reset_held_inv (inputs : List Event) : ({ idle inputs with resetAsserted := true } : State).Inv :=
  (SameEngine.outside { idle [] with resetAsserted := true } inputs [] 0).inv
    ⟨by decide, by decide, by rintro i ⟨⟩, by decide, by decide,
      fun _ => ⟨⟨rfl, rfl, rfl, rfl, rfl, rfl⟩, rfl, rfl, rfl⟩⟩

theorem witness_ResetHoldsTheEngine :
    (∃ s : State, s.Inv ∧ s.resetAsserted = true ∧ s.inputs.head? = some .resetRelease) ∧
    (∃ s : State, s.Inv ∧ s.resetAsserted = true ∧ s.inputs.head? = some (hostRead .status)) ∧
    (∃ s : State, s.Inv ∧ s.resetAsserted = true ∧ s.inputs.head? = some (hostWrite .cmd 1)) ∧
    (stateOf .absorb 0 0 (some .init) [.resetRelease]).inputs = .resetRelease :: [] :=
  ⟨⟨{ idle [.resetRelease] with resetAsserted := true }, reset_held_inv _, rfl, rfl⟩,
    ⟨{ idle [hostRead .status] with resetAsserted := true }, reset_held_inv _, rfl, rfl⟩,
    ⟨{ idle [hostWrite .cmd 1] with resetAsserted := true }, reset_held_inv _, rfl, rfl⟩, rfl⟩

/-- R115, R118: the release of reset leaves reset. -/
theorem test_release_leaves_reset :
    nextOf State.resetAsserted (step { idle [.resetRelease] with resetAsserted := true }) = some false := by decide

theorem witness_InitAndResetDiffer :
    ∃ t, exec .init { stateOf .done 3 3 (some .init) [] with err := true, errCode := 4 } = .next t := ⟨_, rfl⟩

/-! ### The whole machine -/

theorem witness_HashWriters :
    (∃ t, step { idle [.resetAssert] with hash := Vector.replicate 8 0 } = .next t ∧
      t.hash ≠ Vector.replicate 8 0) ∧
    (∃ t, step { stateOf .done 0 0 (some .init) [] with hash := Vector.replicate 8 0 } = .next t ∧
      t.hash ≠ Vector.replicate 8 0) ∧
    (∃ t, step (stateOf .absorb 0 0 (some (.update 64)) [.engineTurn]) = .next t ∧ t.hash ≠ initialHash) ∧
    (∃ t, step (stateOf .partialBlock 55 55 (some .final) []) = .next t ∧ t.hash ≠ initialHash) ∧
    (∃ t, step (stateOf .partialBlock 56 56 (some .final) []) = .next t ∧ t.hash ≠ initialHash) :=
  ⟨⟨_, rfl, by decide⟩, ⟨_, rfl, by decide⟩, ⟨_, rfl, by decide +kernel⟩, ⟨_, rfl, by decide +kernel⟩,
    ⟨_, rfl, by decide +kernel⟩⟩

theorem witness_BufferWriters :
    (∃ t, step { idle [.resetAssert] with buf := Vector.replicate 128 1 } = .next t ∧ t.buf[127] ≠ 1) ∧
    (∃ t, step { stateOf .absorb 0 0 (some .init) [] with buf := Vector.replicate 128 1 } = .next t ∧ t.buf[127] ≠ 1) ∧
    (∃ t, step (stateOf .partialBlock 55 55 (some .final) []) = .next t ∧ t.buf[55] ≠ 0) ∧
    (∃ t, step (stateOf .partialBlock 56 56 (some .final) []) = .next t ∧ t.buf[127] ≠ 0) ∧
    (∃ t, step (idle [hostWrite (.data 15) 1]) = .next t ∧ t.buf[63] ≠ 0) :=
  ⟨⟨_, rfl, by decide⟩, ⟨_, rfl, by decide⟩, ⟨_, rfl, by decide +kernel⟩, ⟨_, rfl, by decide +kernel⟩,
    ⟨_, rfl, by decide +kernel⟩⟩

theorem witness_LengthWriters :
    (∃ t, step (stateOf .absorb 0 0 (some (.update 3)) []) = .next t ∧ t.count ≠ 0) ∧
    (∃ t, step { stateOf .done 0 0 (some .init) [] with lovf := true } = .next t ∧ t.lovf = false) ∧
    (∃ t, step { idle [.resetAssert] with lovf := true } = .next t ∧ t.lovf = false) :=
  ⟨⟨_, rfl, by decide⟩, ⟨_, rfl, rfl⟩, ⟨_, rfl, rfl⟩⟩

theorem witness_PhaseMoves :
    (∃ t, step (stateOf .done 0 0 (some .init) []) = .next t ∧ t.phase = .absorb) ∧
    (∃ t, step (stateOf .done 0 0 none [.resetAssert]) = .next t ∧ t.phase = .absorb) ∧
    (∃ t, step (stateOf .absorb 0 0 (some (.update 63)) []) = .next t ∧ t.phase = .partialBlock) ∧
    (∃ t, step (stateOf .partialBlock 63 63 (some .final) []) = .next t ∧ t.phase = .done) :=
  ⟨⟨_, rfl, rfl⟩, ⟨_, rfl, rfl⟩, ⟨_, rfl, rfl⟩, ⟨_, rfl, rfl⟩⟩

theorem witness_OneCommandPending :
    (∃ t, step (idle [hostCommand (.update 64)]) = .next t ∧ t.pending = some (.update 64)) ∧
    (∃ t, step (stateOf .absorb 0 0 (some .init) [hostWrite .cmd 3]) = .next t ∧ t.pending = some .init) ∧
    (∃ t, step (stateOf .absorb 0 0 (some .init) [.engineTurn]) = .next t ∧ t.pending = none) :=
  ⟨⟨_, rfl, rfl⟩, ⟨_, rfl, rfl⟩, ⟨_, rfl, rfl⟩⟩

/-- Nothing pending; and an INIT pending while it is not yet the engine's turn. -/
theorem witness_DigestIsKept :
    (∃ t, step (stateOf .done 0 0 none [hostCommand .init]) = .next t ∧
      (stateOf .done 0 0 none [hostCommand .init]).inputs.head? ≠ some .resetAssert ∧
      (stateOf .done 0 0 none [hostCommand .init]).pending ≠ some .init) ∧
    (∃ t, step (stateOf .done 0 0 (some .init) [hostRead .status]) = .next t ∧
      (stateOf .done 0 0 (some .init) [hostRead .status]).inputs.head? ≠ some .resetAssert ∧
      ¬ (stateOf .done 0 0 (some .init) [hostRead .status]).engineNext) :=
  ⟨⟨_, rfl, by decide, by decide⟩, ⟨_, rfl, by decide, by simp [State.engineNext, stateOf, hostRead]⟩⟩

theorem witness_EveryStepKeepsTheInvariant :
    ∃ t, step (stateOf .partialBlock 63 63 (some .final) [hostWrite .cmd 3]) = .next t ∧
      (stateOf .partialBlock 63 63 (some .final) [hostWrite .cmd 3]).Inv := ⟨_, rfl, pending_inv _⟩

theorem witness_NoRunFaults : (stateOf .partialBlock 63 63 (some .final) [hostRead .status]).Inv := pending_inv _

theorem witness_PendingCommandIsPerformed :
    (stateOf .partialBlock 63 63 (some .final) [hostRead .status]).Inv ∧
    (stateOf .partialBlock 63 63 (some .final) [hostRead .status]).resetAsserted = false ∧
    (stateOf .partialBlock 63 63 (some .final) [hostRead .status]).pending ≠ none := ⟨pending_inv _, rfl, by decide⟩

/-- The first bytes of the buffer that holds "abc". -/
theorem bufOf_abc : (bufOf [0x61, 0x62, 0x63])[0] = 0x61 ∧ (bufOf [0x61, 0x62, 0x63])[1] = 0x62 ∧
    (bufOf [0x61, 0x62, 0x63])[2] = 0x63 := by decide +kernel

/-- The message "abc" after its short UPDATE. -/
theorem witness_FinalGivesTheDigest : ∃ s : State, s.consistent = true ∧ s.phase ≠ .done ∧
    s.hash = chain [0x61, 0x62, 0x63] 0 ∧ s.count = BitVec.ofNat 64 3 ∧ s.used.toNat = 3 % 64 ∧
    ∀ (a : Nat) (h : a < 128), a < s.used.toNat → s.buf[a] = [0x61, 0x62, 0x63].getD (64 * (3 / 64) + a) 0 := by
  refine ⟨{ stateOf .partialBlock 3 3 none [] with buf := bufOf [0x61, 0x62, 0x63] }, by decide +kernel, by decide, rfl,
    rfl, rfl, fun a h ha => ?_⟩
  have h3 : a < 3 := ha
  rcases (by omega : a = 0 ∨ a = 1 ∨ a = 2) with rfl | rfl | rfl
  · exact bufOf_abc.1
  · exact bufOf_abc.2.1
  · exact bufOf_abc.2.2

theorem witness_HostSequenceHashesTheMessage (m : List Byte) :
    (stateOf .done 63 63 none (hostHash m 2 (fun _ => 0) 1 0 ++ hostDigest)).Inv ∧
    (stateOf .done 63 63 none (hostHash m 2 (fun _ => 0) 1 0 ++ hostDigest)).resetAsserted = false ∧
    (stateOf .done 63 63 none (hostHash m 2 (fun _ => 0) 1 0 ++ hostDigest)).pending = none ∧
    ([0x61, 0x62, 0x63] : List Byte).length < 2 ^ 61 := ⟨done_inv _, rfl, rfl, by decide⟩

end Sys2Proof.Tests
end

section
/-! The values of R28, and what STATUS (R26) reads while the engine is at them. -/

namespace Sys2Proof.Machine

theorem atReset_reset : AtReset State.reset where
  hash := rfl
  buf := rfl
  count := rfl
  used := rfl
  lovf := rfl
  phase := rfl
  err := rfl
  errCode := rfl
  pending := rfl

theorem AtReset.busy_eq_false {s : State} (h : AtReset s) : s.busy = false :=
  (Machine.busy_eq_false s).2 h.pending

/-- Every field of STATUS is 0 at the reset values, and so are its reserved bits (R26). -/
theorem AtReset.statusWord_eq_zero {s : State} (h : AtReset s) : statusWord s = 0 := by
  have hused : s.used = 0 := h.used
  have hlovf : s.lovf = false := h.lovf
  have hphase : s.phase = .absorb := h.phase
  rw [statusWord, hused, hlovf, hphase, h.err, h.errCode, h.busy_eq_false]
  decide

/-- Settles O45: R28's table field by field, BUSY from PENDING and STATUS from its fields. -/
theorem resetValues : Obligations.ResetValues :=
  ⟨rfl, rfl, rfl, rfl, rfl, rfl, rfl, rfl, rfl, atReset_reset.busy_eq_false, atReset_reset.statusWord_eq_zero⟩

end Sys2Proof.Machine
end

section
/-! The steps of the host's accesses to the window: one not performed, a read or write of a register, a read while
BUSY = 0. -/

namespace Sys2Proof.Machine

/-- An access that reaches no register has the bus error as its whole effect (R104). -/
theorem step_of_accessTarget_none {a : Access} {rest : List Event} {s : State} (h : AccessNext a rest s)
    (ha : accessTarget a = none) : step s = .next (answered (.busError a.offset) rest s) := by
  rw [step_of_accessNext h, accessWindow, ha]
  rfl

theorem step_read {r : Reg} {rest : List Event} {s : State} (h : AccessNext (.read .bits32 (regOffset r)) rest s) :
    step s = .next (readRegister r (withInputs rest s)) := by
  rw [step_of_accessNext h, accessWindow_read]

theorem step_write {r : Reg} {v : Word} {rest : List Event} {s : State}
    (h : AccessNext (.write .bits32 (regOffset r) v) rest s) :
    step s = .next (writeRegister r v (withInputs rest s)) := by
  rw [step_of_accessNext h, accessWindow_write]

/-- What a register reads as does not depend on what comes next. -/
@[simp] theorem idleValue_withInputs (r : Reg) (rest : List Event) (s : State) :
    idleValue r (withInputs rest s) = idleValue r s := by
  cases r <;> rfl

theorem step_read_of_idle {r : Reg} {rest : List Event} {s : State} (hb : s.busy = false)
    (h : AccessNext (.read .bits32 (regOffset r)) rest s) :
    step s = .next (answered (.readData (idleValue r s)) rest s) := by
  rw [step_read h, readRegister, withInputs_busy, hb, idleValue_withInputs]
  rfl

/-- A write of a writable register is acknowledged, a rejected one too (log 13). -/
theorem writeRegister_responses_of_writable {r : Reg} (hr : r.writable = true) (v : Word) (s : State) :
    (writeRegister r v s).responses = .writeAck :: s.responses := by
  cases r with
  | cmd | status | data j => simp [writeRegister]
  | countLo | countHi | h i => cases hr

end Sys2Proof.Machine
end

section
/-! The register window: its addresses (R31), the accesses that are not performed (R33, R34), the STATUS write (R40)
and the digest's bytes (R38). -/

namespace Sys2Proof.Machine

theorem shaBase_mod : Config.shaBase % 256 = 0 :=
  Nat.mul_mod_right 256 Config.shaBasePage

theorem windowOffset_eq_some (addr : Nat) (off : BitVec 8) :
    windowOffset addr = some off ↔ addr = Config.shaBase + off.toNat := by
  have hoff : off.toNat < 256 := off.isLt
  unfold windowOffset
  split
  · rw [Option.some_inj, ← BitVec.toNat_inj, BitVec.toNat_ofNat]
    omega
  · simp only [reduceCtorEq, false_iff]
    omega

/-- Settles O30: SHA_BASE is 256 times its page, and an address of the window is SHA_BASE plus its offset. -/
theorem windowAddresses : Obligations.WindowAddresses :=
  ⟨shaBase_mod, windowOffset_eq_some⟩

/-- Every register stands at a multiple of 4 below 0x80 that is not reserved (R32). -/
theorem regOffset_range (r : Reg) : (regOffset r).toNat % 4 = 0 ∧
    ((regOffset r).toNat ≤ 0x0C ∨ 0x20 ≤ (regOffset r).toNat) ∧ (regOffset r).toNat < 0x80 := by
  cases r with
  | cmd | status | countLo | countHi => decide
  | h i | data j => simp only [regOffset, BitVec.toNat_ofNat]; omega

/-- The writable registers stand below COUNT_LO and from DATA 0 on (R32). -/
theorem regOffset_of_writable {r : Reg} (hr : r.writable = true) :
    (regOffset r).toNat < 0x08 ∨ 0x40 ≤ (regOffset r).toNat := by
  cases r with
  | cmd | status => decide
  | data j => simp only [regOffset, BitVec.toNat_ofNat]; omega
  | countLo | countHi | h i => cases hr

/-- Only a 32-bit read at a register's offset reaches it (R33, R34). -/
theorem eq_of_accessTarget_read {w : AccessWidth} {off : BitVec 8} {r : Reg} (h : accessTarget (.read w off) = some r) :
    w = .bits32 ∧ regOffset r = off := by
  cases w with
  | bits8 | bits16 | bits64 => cases h
  | bits32 => exact ⟨rfl, regOffset_of_regAt off r h⟩

/-- Only a 32-bit write at a writable register's offset reaches it (R33, R34). -/
theorem eq_of_accessTarget_write {w : AccessWidth} {off : BitVec 8} {v : Word} {r : Reg}
    (h : accessTarget (.write w off v) = some r) : w = .bits32 ∧ regOffset r = off ∧ r.writable = true := by
  cases w with
  | bits8 | bits16 | bits64 => cases h
  | bits32 =>
    obtain ⟨hr, hw⟩ := Option.filter_eq_some_iff.1 h
    exact ⟨rfl, regOffset_of_regAt off r hr, hw⟩

/-- Why a read reaches no register: another width (R33), a misaligned or a reserved offset (R34). -/
theorem accessTarget_read_eq_none {w : AccessWidth} {off : BitVec 8}
    (h : w ≠ .bits32 ∨ off.toNat % 4 ≠ 0 ∨ (0x10 ≤ off.toNat ∧ off.toNat ≤ 0x1C) ∨ 0x80 ≤ off.toNat) :
    accessTarget (.read w off) = none := by
  refine Option.eq_none_iff_forall_ne_some.2 fun r hr => ?_
  obtain ⟨rfl, rfl⟩ := eq_of_accessTarget_read hr
  have hrange := regOffset_range r
  replace h := h.resolve_left (not_not_intro rfl)
  omega

/-- Why a write reaches no register: the causes of a read, or the offset of a read-only register (R34). -/
theorem accessTarget_write_eq_none {w : AccessWidth} {off : BitVec 8} {v : Word}
    (h : w ≠ .bits32 ∨ off.toNat % 4 ≠ 0 ∨ (0x10 ≤ off.toNat ∧ off.toNat ≤ 0x1C) ∨ 0x80 ≤ off.toNat ∨
      off = 0x08 ∨ off = 0x0C ∨ (0x20 ≤ off.toNat ∧ off.toNat ≤ 0x3C)) :
    accessTarget (.write w off v) = none := by
  refine Option.eq_none_iff_forall_ne_some.2 fun r hr => ?_
  obtain ⟨rfl, rfl, hw⟩ := eq_of_accessTarget_write hr
  have hrange := regOffset_range r
  have hplace := regOffset_of_writable hw
  replace h := h.resolve_left (not_not_intro rfl)
  bv_omega

/-- Settles O32: the accesses named reach no register, and a performed one answers data or an acknowledgement. -/
theorem busErrors : Obligations.BusErrors := by
  refine ⟨fun s w off v rest a ha hnext hcause => ?_, fun s t r v rest a ha hnext hstep => ?_⟩
  · obtain rfl | rfl := ha
    · exact step_of_accessTarget_none hnext (accessTarget_read_eq_none (by simpa using hcause))
    · exact step_of_accessTarget_none hnext (accessTarget_write_eq_none (by simpa using hcause))
  · obtain rfl | ⟨rfl, hr⟩ := ha
    · obtain rfl := Host.Outcome.next.inj ((step_read hnext).symm.trans hstep)
      exact ⟨_, readRegister_responses r _, by simp⟩
    · obtain rfl := Host.Outcome.next.inj ((step_write hnext).symm.trans hstep)
      exact ⟨_, writeRegister_responses_of_writable hr v _, by simp⟩

/-- Settles O39: the STATUS write is performed, and bit 4 alone decides whether it clears the error record. -/
theorem statusWrite : Obligations.StatusWrite := by
  intro s v rest hnext
  have hstep : step s = .next (respond .writeAck (writeStatus v (withInputs rest s))) := step_write (r := .status) hnext
  refine ⟨fun hbit => ?_, fun hbit => ?_⟩
  · rw [hstep, writeStatus, hbit]
    rfl
  · rw [hstep, writeStatus, hbit]
    rfl

/-- Byte `k` of a big-endian word (R11). -/
theorem be32bytes_getElem? (w : Word) {k : Nat} (hk : k < 4) :
    (be32bytes w)[k]? = some (w.extractLsb' (24 - 8 * k) 8) := by
  match k, hk with
  | 0, _ | 1, _ | 2, _ | 3, _ => rfl

/-- Byte `k` of a sequence of big-endian words is in word k div 4, at its place k mod 4. -/
theorem flatMap_be32bytes_getElem? (ws : List Word) (k : Nat) :
    (ws.flatMap be32bytes)[k]? = ws[k / 4]?.map fun w => w.extractLsb' (24 - 8 * (k % 4)) 8 := by
  induction ws generalizing k with
  | nil => simp
  | cons w ws ih =>
    rw [List.flatMap_cons]
    rcases Nat.lt_or_ge k 4 with hk | hk
    · rw [List.getElem?_append_left hk, be32bytes_getElem? w hk, Nat.div_eq_of_lt hk, Nat.mod_eq_of_lt hk]
      rfl
    · obtain ⟨j, rfl⟩ := Nat.exists_eq_add_of_le' hk
      rw [List.getElem?_append_right hk, be32bytes_length, Nat.add_sub_cancel, ih, Nat.add_div_right j (by decide),
        Nat.add_mod_right]
      rfl

/-- The digest is the words of H in order, each big-endian (R38). -/
theorem digestBytes_eq_flatMap (h : HashWords) : digestBytes h = h.toList.flatMap be32bytes := by
  have hwords : (List.finRange 8).map (fun i => h[i]) = h.toList := by
    rw [← List.ofFn_eq_map, ← Vector.toList_ofFn]
    simp
  rw [← hwords, List.flatMap_map]
  rfl

theorem digestBytes_length (h : HashWords) : (digestBytes h).length = 32 := by
  simp [digestBytes]

theorem digestBytes_getElem? (h : HashWords) {k : Nat} (hk : k < 32) :
    (digestBytes h)[k]? = some (h[k / 4].extractLsb' (24 - 8 * (k % 4)) 8) := by
  have hword : h.toList[k / 4]? = some h[k / 4] := by
    rw [List.getElem?_eq_getElem (by simp; omega), Vector.getElem_toList]
  rw [digestBytes_eq_flatMap, flatMap_be32bytes_getElem?, hword]
  rfl

/-- Settles O40: the read is that of register H i, and the digest's bytes are those of the words of H in order. -/
theorem digestReadout : Obligations.DigestReadout :=
  ⟨fun _ i _ hb hnext => step_read_of_idle (r := .h i) hb hnext,
    fun h => ⟨digestBytes_length h, fun _ hk => digestBytes_getElem? h hk⟩⟩

end Sys2Proof.Machine
end

section
/-! The words of each verdict of the decoder (R50, R51): a word is its four fields, and the mask of UPDATE keeps them
all but N. -/

namespace Sys2Proof

/-- A word is its four fields in the order of R48. -/
theorem fields_append (v : Word) : rsv1Field v ++ countField v ++ rsv0Field v ++ opField v = v := by
  simp only [rsv1Field, countField, rsv0Field, opField]
  rw [BitVec.extractLsb'_append_extractLsb'_eq_extractLsb' (start₁ := 8) (start₂ := 15) rfl,
    BitVec.extractLsb'_append_extractLsb'_eq_extractLsb' (start₁ := 4) (start₂ := 8) rfl,
    BitVec.extractLsb'_append_extractLsb'_eq_extractLsb' (start₁ := 0) (start₂ := 4) rfl,
    BitVec.extractLsb'_eq_self]

theorem eq_iff_fields (v w : Word) :
    v = w ↔ rsv1Field v = rsv1Field w ∧ countField v = countField w ∧ rsv0Field v = rsv0Field w ∧
      opField v = opField w := by
  refine ⟨fun h => h ▸ ⟨rfl, rfl, rfl, rfl⟩, fun ⟨hrsv1, hcount, hrsv0, hop⟩ => ?_⟩
  rw [← fields_append v, hrsv1, hcount, hrsv0, hop, fields_append]

/-- The mask of UPDATE clears N and keeps the other fields, so its match fixes all of them but N (R50). -/
theorem updateMask_iff_fields (v : Word) :
    v &&& 0xFFFF80FF = 0x00000002 ↔ rsv1Field v = 0 ∧ rsv0Field v = 0 ∧ opField v = 2 := by
  have hrsv1 : rsv1Field (v &&& 0xFFFF80FF) = rsv1Field v :=
    BitVec.extractLsb'_and.trans BitVec.and_allOnes
  have hcount : countField (v &&& 0xFFFF80FF) = 0 :=
    BitVec.extractLsb'_and.trans BitVec.and_zero
  have hrsv0 : rsv0Field (v &&& 0xFFFF80FF) = rsv0Field v :=
    BitVec.extractLsb'_and.trans BitVec.and_allOnes
  have hop : opField (v &&& 0xFFFF80FF) = opField v :=
    BitVec.extractLsb'_and.trans BitVec.and_allOnes
  rw [eq_iff_fields, hrsv1, hcount, hrsv0, hop]
  exact ⟨fun ⟨h1, _, h0, h⟩ => ⟨h1, h0, h⟩, fun ⟨h1, h0, h⟩ => ⟨h1, rfl, h0, h⟩⟩

/-- A word decodes to a command exactly when the command is well-formed and the word is its canonical one (R50, R51). -/
theorem decode_eq_command_iff_encode (v : Word) (i : Instr) :
    decode v = .command i ↔ i.wf = true ∧ v = encode i := by
  rw [Machine.decode_eq_command, eq_iff_fields]
  cases i with
  | init =>
    obtain ⟨hrsv1, hrsv0, hop, hcount⟩ := Laws.EncodeFields.init
    simp only [hrsv1, hrsv0, hop, hcount, Instr.wf, reduceCtorEq, true_and, false_and, or_false]
    tauto
  | final =>
    obtain ⟨hrsv1, hrsv0, hop, hcount⟩ := Laws.EncodeFields.final
    simp only [hrsv1, hrsv0, hop, hcount, Instr.wf, reduceCtorEq, true_and, false_and, or_false, false_or]
    tauto
  | update n =>
    obtain ⟨hrsv1, hrsv0, hop, hcount⟩ := Laws.EncodeFields.update n
    simp only [hrsv1, hrsv0, hop, hcount, Instr.wf, decide_eq_true_iff, reduceCtorEq, false_and, false_or,
      Instr.update.injEq]
    constructor
    · rintro ⟨h1, h0, rfl, h, hn⟩
      exact ⟨hn, h1, rfl, h0, h⟩
    · rintro ⟨hn, h1, rfl, h0, h⟩
      exact ⟨h1, h0, rfl, h, hn⟩

theorem decode_eq_init_iff (v : Word) : decode v = .command .init ↔ v = 0x00000001 :=
  (decode_eq_command_iff_encode v .init).trans (and_iff_right rfl)

theorem decode_eq_final_iff (v : Word) : decode v = .command .final ↔ v = 0x00000003 :=
  (decode_eq_command_iff_encode v .final).trans (and_iff_right rfl)

theorem decode_eq_update_iff (v : Word) (n : BitVec 7) :
    decode v = .command (.update n) ↔ v &&& 0xFFFF80FF = 0x00000002 ∧ countField v = n ∧ n.toNat ≤ 64 := by
  rw [Machine.decode_eq_command, updateMask_iff_fields]
  simp only [reduceCtorEq, false_and, false_or, Instr.update.injEq]
  constructor
  · rintro ⟨h1, h0, rfl, h, hn⟩
    exact ⟨⟨h1, h0, h⟩, rfl, hn⟩
  · rintro ⟨⟨h1, h0, h⟩, rfl, hn⟩
    exact ⟨h1, h0, rfl, h, hn⟩

theorem decode_eq_badCount_iff (v : Word) :
    decode v = .illegal .badCount ↔ v &&& 0xFFFF80FF = 0x00000002 ∧ 65 ≤ (countField v).toNat := by
  rw [updateMask_iff_fields]
  constructor
  · intro hbad
    unfold decode at hbad
    split_ifs at hbad with hrsv _ _ _ hover
    · cases hbad
    · obtain ⟨h, hn⟩ := hover
      obtain ⟨h1, h0⟩ := not_or.1 hrsv
      exact ⟨⟨not_not.1 h1, not_not.1 h0, h⟩, hn⟩
    · cases hbad
  · rintro ⟨⟨h1, h0, h⟩, hn⟩
    have hover : ¬ (countField v).toNat ≤ 64 := by omega
    simp [decode, h1, h0, h, hn, hover]

/-- An OP of no command is ILLEGAL_CMD whatever the other fields are (R52). -/
theorem decode_of_opField_reserved {v : Word} (h1 : opField v ≠ 1) (h2 : opField v ≠ 2) (h3 : opField v ≠ 3) :
    decode v = .illegal .illegalCmd := by
  simp only [decode, h1, h2, h3, false_and, if_false, ite_self]

/-- The OPs 0x0 and 0x4 to 0xF are those of no command (R52). -/
theorem opField_ne_of_reserved {op : BitVec 4} (h : op = 0x0 ∨ 0x4 ≤ op.toNat) : op ≠ 1 ∧ op ≠ 2 ∧ op ≠ 3 := by
  refine ⟨?_, ?_, ?_⟩ <;> rintro rfl <;> exact absurd h (by decide)

/-- Settles O3: each verdict of the decoder by its words. -/
theorem wordsOfEachCommand : Obligations.WordsOfEachCommand := fun v =>
  ⟨decode_eq_init_iff v, decode_eq_final_iff v, decode_eq_update_iff v, decode_eq_badCount_iff v, fun hop =>
    have ⟨h1, h2, h3⟩ := opField_ne_of_reserved hop
    decode_of_opField_reserved h1 h2 h3⟩

end Sys2Proof
end

section
/-! The word primitives (40_word_primitives.md): ROTR is the library's rotate right (R57), so the mixing functions are
its exclusive ors (R60 to R63); ADD32 is the sum mod 2^32 (R66). -/

namespace Sys2Proof.Machine

/-- The formula of R57 is that of the library's rotate. -/
theorem rotr_eq_rotateRight (x : Word) (r : Nat) : rotr x r = x.rotateRight r :=
  BitVec.rotateRight_def.symm

theorem rotr_mod (x : Word) (r : Nat) : rotr x (r % 32) = rotr x r := by
  rw [rotr_eq_rotateRight, rotr_eq_rotateRight, BitVec.rotateRight_mod_eq_rotateRight]

/-- The bits below 32 - r come from the shift right, the others from the shift left. -/
theorem getLsbD_rotr (x : Word) (r : Nat) {i : Nat} (hi : i < 32) :
    (rotr x r).getLsbD i = x.getLsbD ((i + r) % 32) := by
  rw [rotr_eq_rotateRight, BitVec.getLsbD_rotateRight, Bool.cond_decide]
  split
  next hlow => rw [show (i + r) % 32 = r % 32 + i by omega]
  next hhigh => rw [show (i + r) % 32 = i - (32 - r % 32) by omega, decide_eq_true hi, Bool.true_and]

theorem rotr_zero (x : Word) : rotr x 0 = x := by
  refine BitVec.eq_of_getLsbD_eq fun i hi => ?_
  rw [getLsbD_rotr x 0 hi, Nat.add_zero, Nat.mod_eq_of_lt hi]

theorem rotr_32 (x : Word) : rotr x 32 = x :=
  (rotr_mod x 32).symm.trans (rotr_zero x)

/-- A word whose bits are all the same stays under every rotate. -/
theorem rotr_eq_self_of_bits_eq {x : Word} {b : Bool} (hx : ∀ i < 32, x.getLsbD i = b) (r : Nat) : rotr x r = x := by
  refine BitVec.eq_of_getLsbD_eq fun i hi => ?_
  rw [getLsbD_rotr x r hi, hx i hi, hx _ (Nat.mod_lt _ (by decide))]

/-- Settles O5: each bit by `getLsbD_rotr`; 0 and 0xFFFFFFFF are the words whose bits are all the same. -/
theorem rotateRight : Obligations.RotateRight := by
  refine ⟨fun x r _ hi => getLsbD_rotr x r hi, fun x => ⟨rotr_zero x, rotr_32 x⟩, fun x r => (rotr_mod x r).symm,
    fun r => ⟨?_, ?_⟩, by decide⟩
  · exact rotr_eq_self_of_bits_eq (fun _ _ => BitVec.getLsbD_zero) r
  · have hones : ∀ i < 32, (0xFFFFFFFF : Word).getLsbD i = true := fun _ hi =>
      (BitVec.getLsbD_allOnes (v := 32)).trans (decide_eq_true hi)
    exact rotr_eq_self_of_bits_eq hones r

/-- Settles O6: the model's rotates are the library's, and the values are evaluated. -/
theorem sigmaFunctions : Obligations.SigmaFunctions := by
  refine ⟨fun x => ?_, by decide, by decide, by decide, by decide⟩
  simp only [smallSigma0, smallSigma1, bigSigma0, bigSigma1, rotr_eq_rotateRight, shr, and_self]

theorem toNat_add32 (x y : Word) : (add32 x y).toNat = (x.toNat + y.toNat) % 2 ^ 32 :=
  BitVec.toNat_add x y

/-- Settles O9: the library's sum of two words, and the corner cases evaluated. -/
theorem modularAdd : Obligations.ModularAdd :=
  ⟨toNat_add32, by decide⟩

end Sys2Proof.Machine
end

section
/-! The message schedule (42_message_schedule.md R71): every word of `schedule` already stands in the list the loop has
built so far, so each turn reads the schedule's own words. -/

namespace Sys2Proof.Machine

theorem schedule_toList (b : Block) : (schedule b).toList = extendSchedule 48 (blockWords b) := rfl

/-- One more turn of the loop appends the next word. -/
theorem extendSchedule_succ (k : Nat) (w : List Word) :
    extendSchedule (k + 1) w = extendSchedule k w ++ [nextScheduleWord (extendSchedule k w)] := by
  rw [extendSchedule_add, extendSchedule, extendSchedule]

theorem extendSchedule_blockWords_length (k : Nat) (b : Block) :
    (extendSchedule k (blockWords b)).length = k + 16 := by
  rw [extendSchedule_length, blockWords_length, Nat.add_comm]

/-- After `k` turns the first k + 16 words of the schedule are there. -/
theorem extendSchedule_blockWords_getElem? (b : Block) {k t : Nat} (hk : k ≤ 48) (ht : t < k + 16) :
    (extendSchedule k (blockWords b))[t]? = some (schedule b)[t] := by
  have hsplit : (schedule b).toList = extendSchedule (48 - k) (extendSchedule k (blockWords b)) := by
    rw [← extendSchedule_add, Nat.add_sub_cancel' hk, schedule_toList]
  rw [← extendSchedule_getElem? (48 - k) _ t (by rwa [extendSchedule_blockWords_length]), ← hsplit,
    List.getElem?_eq_getElem (by simp; omega), Vector.getElem_toList]

/-- The first sixteen words are those of the block (R71). -/
theorem schedule_getElem_of_lt (b : Block) {t : Nat} (ht : t < 16) :
    (schedule b)[t] = be32 b[4 * t] b[4 * t + 1] b[4 * t + 2] b[4 * t + 3] := by
  have hword := extendSchedule_blockWords_getElem? b (k := 0) (Nat.zero_le 48) ht
  rw [extendSchedule, blockWords, List.getElem?_ofFn, dif_pos ht] at hword
  exact (Option.some.inj hword).symm

/-- The word at index k + 16 is the one turn `k` of the loop appends. -/
theorem schedule_getElem_add_16 (b : Block) {k : Nat} (hk : k < 48) :
    (schedule b)[k + 16] = nextScheduleWord (extendSchedule k (blockWords b)) := by
  have hlast : (extendSchedule (k + 1) (blockWords b))[k + 16]? =
      some (nextScheduleWord (extendSchedule k (blockWords b))) := by
    rw [extendSchedule_succ, ← extendSchedule_blockWords_length k b, List.getElem?_concat_length]
  have hword := extendSchedule_blockWords_getElem? b (k := k + 1) (t := k + 16) hk (by omega)
  exact Option.some.inj (hword.symm.trans hlast)

/-- The words turn `k` of the loop reads are the schedule's own (R71). -/
theorem nextScheduleWord_extendSchedule (b : Block) {k : Nat} (hk : k < 48) :
    nextScheduleWord (extendSchedule k (blockWords b)) =
      (schedule b)[k] + smallSigma0 (schedule b)[k + 1] + (schedule b)[k + 9] + smallSigma1 (schedule b)[k + 14] := by
  have hword {t : Nat} (ht : t < k + 16) : (extendSchedule k (blockWords b)).getD t 0 = (schedule b)[t] := by
    rw [List.getD_eq_getElem?_getD, extendSchedule_blockWords_getElem? b hk.le ht, Option.getD_some]
  simp only [nextScheduleWord, extendSchedule_blockWords_length, add32, Nat.reduceSubDiff, Nat.add_sub_cancel]
  rw [hword (by omega), hword (by omega), hword (by omega), hword (by omega)]

/-- Settles O11: the words of the block, the words the loop appends, and the example evaluated. -/
theorem scheduleRecurrence : Obligations.ScheduleRecurrence := by
  refine ⟨fun b t ht => schedule_getElem_of_lt b ht, fun b t ht hge => ?_, by decide +kernel⟩
  obtain ⟨k, rfl⟩ := Nat.exists_eq_add_of_le' hge
  have hk : k < 48 := by omega
  exact (schedule_getElem_add_16 b hk).trans (nextScheduleWord_extendSchedule b hk)

end Sys2Proof.Machine
end

section
/-! The compression function (43_compression.md): the words of one round (R74), the sequence of working words the rounds
go through, and the feed-forward onto Hin (R75, R76). -/

namespace Sys2Proof.Machine

/-- The words of a round, ADD32 written as the sum it is (R66, R74). -/
theorem roundStep_eq (v : HashWords) (k w : Word) :
    roundStep v k w = #v[roundT1 v k w + roundT2 v, v[0], v[1], v[2], v[3] + roundT1 v k w, v[4], v[5], v[6]] := rfl

/-- Settles O12: t1 and t2 are the model's T1 and T2, and the example is evaluated. -/
theorem roundWords : Obligations.RoundWords := by
  refine ⟨fun v k w t1 t2 h1 h2 => ?_, by decide +kernel⟩
  have ht1 : t1 = roundT1 v k w := h1
  have ht2 : t2 = roundT2 v := h2
  rw [ht1, ht2, roundStep_eq]

/-- V after the first `n` rounds of the compression, from `v` with the schedule `w` (R75). -/
def workingWords (v : HashWords) (w : ScheduleWords) (n : Nat) : HashWords :=
  ((List.finRange 64).take n).foldl (fun v t => roundStep v roundConstants[t] w[t]) v

theorem workingWords_zero (v : HashWords) (w : ScheduleWords) : workingWords v w 0 = v := rfl

/-- Round `t` works on the V the rounds before it produced (R75). -/
theorem workingWords_succ (v : HashWords) (w : ScheduleWords) {t : Nat} (ht : t < 64) :
    workingWords v w (t + 1) = roundStep (workingWords v w t) roundConstants[t] w[t] := by
  have hindices : (List.finRange 64).take (t + 1) = (List.finRange 64).take t ++ [⟨t, ht⟩] := by
    rw [List.take_succ_eq_append_getElem (by simpa using ht), List.getElem_finRange, Fin.cast_mk]
  rw [workingWords, hindices, List.foldl_concat]
  rfl

theorem rounds_eq_workingWords (v : HashWords) (w : ScheduleWords) : rounds v w = workingWords v w 64 := by
  rw [workingWords, List.take_of_length_le (by simp), rounds]

/-- Each word of the result is a word of Hin plus that of V after the 64 rounds (R76). -/
theorem compress_getElem (hin : HashWords) (b : Block) {i : Nat} (hi : i < 8) :
    (compress hin b)[i] = hin[i] + (workingWords hin (schedule b) 64)[i] := by
  rw [compress, feedForward_getElem, rounds_eq_workingWords, add32]

/-- Settles O13: the sequence is that of the working words, and the two examples are evaluated. -/
theorem compressRoundsAndFeedForward : Obligations.CompressRoundsAndFeedForward := by
  refine ⟨fun hin b => ⟨workingWords hin (schedule b), ?start, ?round, ?feed⟩, by decide +kernel, by decide +kernel⟩
  case start => exact workingWords_zero hin (schedule b)
  case round => exact fun _ ht => workingWords_succ hin (schedule b) ht
  case feed => exact fun _ hi => compress_getElem hin b hi

end Sys2Proof.Machine
end

section
/-! The length counter (44_padding.md): CountAdd of each of a list of counts adds their sum to COUNT mod 2^64 (R79),
and the bit length is COUNT shifted left by 3 (R80). -/

namespace Sys2Proof.Machine

theorem countAfter_eq_add (count : Count) (n : BitVec 7) : countAfter count n = count + n.setWidth 64 := by
  rw [countAfter, exactTotal, byteCount, BitVec.ofNat_add, BitVec.ofNat_toNat, BitVec.ofNat_toNat, BitVec.setWidth_eq]

theorem countAfter_toNat (count : Count) (n : BitVec 7) :
    (countAfter count n).toNat = (count.toNat + n.toNat) % 2 ^ 64 :=
  BitVec.toNat_ofNat (exactTotal count n) 64

/-- CountAdd of each count of a list in turn adds their sum to COUNT, mod 2^64 (R79). -/
theorem foldl_countAdd_count_toNat (ns : List (BitVec 7)) (s : State) :
    (ns.foldl (fun t n => countAdd n t) s).count.toNat = (s.count.toNat + (ns.map BitVec.toNat).sum) % 2 ^ 64 := by
  induction ns generalizing s with
  | nil => exact (Nat.mod_eq_of_lt s.count.isLt).symm
  | cons n ns ih =>
    rw [List.foldl_cons, ih, countAdd_count, countAfter_toNat, Nat.mod_add_mod, List.map_cons, List.sum_cons,
      Nat.add_assoc]

/-- Settles O14: the wrapped total is the sum of two words, and a list of counts adds up from COUNT = 0. -/
theorem countAddWrapsAndFlags : Obligations.CountAddWrapsAndFlags := by
  refine ⟨fun s n => ?_, fun ns s hzero => ?_⟩
  · rw [countAdd, countAfter_eq_add]
    rfl
  · rw [foldl_countAdd_count_toNat, hzero, BitVec.ofNat_eq_ofNat, BitVec.toNat_zero, Nat.zero_add]

theorem bitLength_toNat (count : Count) : (bitLength count).toNat = 8 * count.toNat % 2 ^ 64 :=
  BitVec.toNat_ofNat (8 * count.toNat) 64

theorem bitLength_eq_shiftLeft (count : Count) : bitLength count = count <<< 3 := by
  refine BitVec.eq_of_toNat_eq ?_
  rw [bitLength_toNat, BitVec.toNat_shiftLeft, Nat.shiftLeft_eq, Nat.mul_comm]

/-- Bits 63:3 of the bit length are COUNT[60:0] (R80). -/
theorem bitLength_high (count : Count) : (bitLength count).extractLsb' 3 61 = count.extractLsb' 0 61 := by
  refine BitVec.eq_of_getLsbD_eq fun i hi => ?_
  have hin : 3 + i < 64 := by omega
  rw [bitLength_eq_shiftLeft, BitVec.getLsbD_extractLsb', BitVec.getLsbD_extractLsb', BitVec.getLsbD_shiftLeft,
    Nat.add_sub_cancel_left, Nat.zero_add]
  simp [hin]

/-- Bits 2:0 of the bit length are 0 (R80). -/
theorem bitLength_low (count : Count) : (bitLength count).extractLsb' 0 3 = 0 := by
  refine BitVec.eq_of_getLsbD_eq fun i hi => ?_
  simp [bitLength_eq_shiftLeft, hi]

/-- Settles O15: the value and its two fields, and the examples evaluated. -/
theorem bitLengthField : Obligations.BitLengthField :=
  ⟨fun c => ⟨bitLength_toNat c, bitLength_high c, bitLength_low c⟩, by decide, by decide⟩

end Sys2Proof.Machine
end

section
/-! The phase table (R89) and the issue of a command (R88): what a CMD write does, check by check. -/

namespace Sys2Proof.Machine

@[simp] theorem allowed_init (p : Phase) : allowed .init p = true := rfl

@[simp] theorem allowed_update_iff (n : BitVec 7) (p : Phase) : allowed (.update n) p = true ↔ p = .absorb := by
  cases p <;> simp [allowed]

@[simp] theorem allowed_final_iff (p : Phase) : allowed .final p = true ↔ p = .absorb ∨ p = .partialBlock := by
  cases p <;> simp [allowed]

/-- Settles O21: the table of R89, a row per command. -/
theorem phaseTable : Obligations.PhaseTable :=
  ⟨allowed_init, allowed_update_iff, allowed_final_iff⟩

theorem issueCommand_of_busy {v : Word} {s : State} (hb : s.busy = true) :
    issueCommand v s = raiseCmdError .busyWrite s := by
  rw [issueCommand, if_pos hb]

theorem issueCommand_of_illegal {v : Word} {s : State} {c : ErrorCode} (hb : s.busy = false)
    (hd : decode v = .illegal c) : issueCommand v s = raiseCmdError c s := by
  simp only [issueCommand, hb, hd, Bool.false_eq_true, if_false]

/-- Past the first two checks the phase table alone decides (R88). -/
theorem issueCommand_of_command {v : Word} {s : State} {i : Instr} (hb : s.busy = false)
    (hd : decode v = .command i) :
    issueCommand v s = if allowed i s.phase then { s with pending := some i } else raiseCmdError .sequence s := by
  simp only [issueCommand, hb, hd, Bool.false_eq_true, if_false]

theorem step_write_cmd {v : Word} {rest : List Event} {s : State} (h : AccessNext (.write .bits32 0x00 v) rest s) :
    step s = .next (respond .writeAck (issueCommand v (withInputs rest s))) :=
  step_write (r := .cmd) h

/-- Settles O20: the step is the issue of the command and its answer, and each outcome of the four checks has its
equation. -/
theorem commandIssue : Obligations.CommandIssue := by
  intro s v rest hnext
  rw [step_write_cmd hnext]
  refine ⟨fun hb => ?busy, fun c hb hd => ?illegal, fun i hb hd ha => ?sequence, fun i hb hd ha => ?accepted⟩
  case busy =>
    rw [issueCommand_of_busy (s := withInputs rest s) hb]
    rfl
  case illegal =>
    rw [issueCommand_of_illegal (s := withInputs rest s) hb hd]
    rfl
  case sequence =>
    rw [issueCommand_of_command (s := withInputs rest s) hb hd, withInputs_phase, ha]
    rfl
  case accepted =>
    rw [issueCommand_of_command (s := withInputs rest s) hb hd, withInputs_phase, ha]
    rfl

end Sys2Proof.Machine
end

section
/-! The error record (60_exceptions.md): what raising an error does to it (R101), the writes rejected while BUSY = 1
(R102), and the causes of a rejected CMD write in their order (R103). -/

namespace Sys2Proof

/-- The causes of ILLEGAL_CMD: a reserved bit, an OP of no command, or a byte count in a command that takes none. -/
theorem decode_eq_illegalCmd_iff (v : Word) :
    decode v = .illegal .illegalCmd ↔ rsv1Field v ≠ 0 ∨ rsv0Field v ≠ 0 ∨
      (opField v ≠ 1 ∧ opField v ≠ 2 ∧ opField v ≠ 3) ∨ (opField v ≠ 2 ∧ countField v ≠ 0) := by
  unfold decode
  split_ifs with hrsv hinit hfinal hupdate hover
  -- in order: a reserved bit, the three commands, BAD_COUNT, every other word
  · simp only [true_iff]
    tauto
  · simp_all
  · simp_all
  · simp_all
  · simp_all
  · have hop : opField v ≠ 2 := fun h =>
      (Nat.lt_or_ge 64 (countField v).toNat).elim (fun hn => hover ⟨h, hn⟩) fun hn => hupdate ⟨h, hn⟩
    simp only [true_iff]
    tauto

/-- The decoder rejects a word for two causes alone (R51). -/
theorem exists_decode_eq_command {v : Word} (hillegal : decode v ≠ .illegal .illegalCmd)
    (hbad : decode v ≠ .illegal .badCount) : ∃ i, decode v = .command i := by
  unfold decode at hillegal hbad ⊢
  split_ifs at hillegal hbad ⊢ with hrsv hinit hfinal hupdate hover
  · exact absurd rfl hillegal
  · exact ⟨_, rfl⟩
  · exact ⟨_, rfl⟩
  · exact ⟨_, rfl⟩
  · exact absurd rfl hbad
  · exact absurd rfl hillegal

/-- Past ILLEGAL_CMD, BAD_COUNT is an UPDATE of more than 64 bytes. -/
theorem decode_eq_badCount_iff_of_not_illegalCmd {v : Word} (h : decode v ≠ .illegal .illegalCmd) :
    decode v = .illegal .badCount ↔ opField v = 2 ∧ 65 ≤ (countField v).toNat := by
  have hrsv : rsv1Field v = 0 ∧ rsv0Field v = 0 := by
    rw [ne_eq, decode_eq_illegalCmd_iff] at h
    tauto
  rw [decode_eq_badCount_iff, updateMask_iff_fields]
  simp only [hrsv.1, hrsv.2, true_and]

namespace Machine

/-- The word of a command its phase does not allow: UPDATE outside ABSORB, FINAL in DONE (R89). -/
theorem allowed_eq_false_iff_of_decode {v : Word} {i : Instr} (h : decode v = .command i) (p : Phase) :
    allowed i p = false ↔ (opField v = 2 ∧ p ≠ .absorb) ∨ (opField v = 3 ∧ p = .done) := by
  obtain ⟨-, -, ⟨rfl, hop, -⟩ | ⟨rfl, hop, -⟩ | ⟨rfl, hop, -⟩⟩ := (decode_eq_command v i).1 h
  · simp [hop]
  · cases p <;> simp [hop, allowed]
  · cases p <;> simp [hop, allowed]

theorem raiseCmdError_of_err_false (c : ErrorCode) {s : State} (h : s.err = false) :
    raiseCmdError c s = { s with err := true, errCode := c.number } := by
  rw [raiseCmdError, h]
  rfl

theorem raiseCmdError_of_err_true (c : ErrorCode) {s : State} (h : s.err = true) : raiseCmdError c s = s := by
  obtain ⟨⟩ := s
  cases h
  rfl

/-- Settles O41: raising an error by the value of ERR, and the numbers of R100. -/
theorem firstErrorIsKept : Obligations.FirstErrorIsKept :=
  ⟨fun _ c h => raiseCmdError_of_err_false c h, fun _ c h => raiseCmdError_of_err_true c h, rfl, rfl, rfl, rfl⟩

theorem writeData_of_busy (j : Fin 16) (v : Word) {s : State} (hb : s.busy = true) :
    writeData j v s = raiseCmdError .busyWrite s := by
  rw [writeData, if_pos hb]

/-- Settles O42: the CMD write is the first outcome of its issue, the DATA write that of `writeData`; the STATUS
write is that of O39, and a read is answered with data in either case. -/
theorem busyWritesAreRejected : Obligations.BusyWritesAreRejected := by
  intro s v rest hb
  refine ⟨fun hnext => ?cmd, fun j hnext => ?data, fun hnext => ?status, fun r hnext => ?read⟩
  case cmd => exact (commandIssue s v rest hnext).1 hb
  case data =>
    rw [step_write hnext, writeRegister, writeData_of_busy (s := withInputs rest s) j v hb]
    rfl
  case status =>
    obtain ⟨hclear, hkeep⟩ := statusWrite s v rest hnext
    rw [writeStatus]
    split
    next hbit => exact hclear hbit
    next hbit => exact hkeep (Bool.eq_false_of_not_eq_true hbit)
  case read => exact ⟨_, _, step_read hnext, readRegister_responses r _⟩

/-- A CMD write changes no register of the session, whether it is accepted or rejected (R88, R101). -/
theorem sameSession_of_step_write_cmd {v : Word} {rest : List Event} {s t : State}
    (hnext : AccessNext (.write .bits32 0x00 v) rest s) (h : step s = .next t) : SameSession s t := by
  obtain rfl := Host.Outcome.next.inj ((step_write_cmd hnext).symm.trans h)
  exact ⟨issueCommand_hash v _, issueCommand_buf v _, issueCommand_count v _, issueCommand_used v _,
    issueCommand_lovf v _, issueCommand_phase v _⟩

/-- Settles O43: each cause is an outcome of the decoder or of the phase table, and the issue of the command asks for
them in their order. -/
theorem rejectionPriority : Obligations.RejectionPriority := by
  intro s v rest illegal badCount sequence hnext herr hillegal hbad hseq
  have hword : illegal ↔ decode v = .illegal .illegalCmd := hillegal.trans (decode_eq_illegalCmd_iff v).symm
  have hcount (hi : ¬ illegal) : badCount ↔ decode v = .illegal .badCount :=
    hbad.trans (decode_eq_badCount_iff_of_not_illegalCmd (mt hword.2 hi)).symm
  have hcommand (hi : ¬ illegal) (hc : ¬ badCount) :
      ∃ i, decode v = .command i ∧ (sequence ↔ allowed i s.phase = false) := by
    obtain ⟨i, hd⟩ := exists_decode_eq_command (mt hword.2 hi) (mt (hcount hi).2 hc)
    exact ⟨i, hd, hseq.trans (allowed_eq_false_iff_of_decode hd s.phase).symm⟩
  obtain ⟨hrejectBusy, hrejectWord, hrejectPhase, haccept⟩ := commandIssue s v rest hnext
  obtain ⟨t, ht⟩ : ∃ t, step s = .next t := ⟨_, step_write_cmd hnext⟩
  have hrecord {c : ErrorCode} (h : step s = .next (raiseCmdError c (answered .writeAck rest s))) :
      t.err = true ∧ t.errCode = c.number := by
    rw [raiseCmdError_of_err_false c (s := answered .writeAck rest s) herr] at h
    obtain rfl := Host.Outcome.next.inj (ht.symm.trans h)
    exact ⟨rfl, rfl⟩
  refine ⟨t, ht, sameSession_of_step_write_cmd hnext ht, fun hb => ?busyWrite, fun hb hi => ?illegalCmd,
    fun hb hi hc => ?badCount, fun hb hi hc hq => ?sequence, fun hb hi hc hq => ?accepted⟩
  case busyWrite => exact hrecord (hrejectBusy hb)
  case illegalCmd => exact hrecord (hrejectWord .illegalCmd hb (hword.1 hi))
  case badCount => exact hrecord (hrejectWord .badCount hb ((hcount hi).1 hc))
  case sequence =>
    obtain ⟨i, hd, hphase⟩ := hcommand hi hc
    exact hrecord (hrejectPhase i hb hd (hphase.1 hq))
  case accepted =>
    obtain ⟨i, hd, hphase⟩ := hcommand hi hc
    have hallowed : allowed i s.phase = true := Bool.eq_true_of_not_eq_false (mt hphase.2 hq)
    obtain rfl := Host.Outcome.next.inj (ht.symm.trans (haccept i hb hd hallowed))
    exact ⟨herr, Option.some_ne_none i⟩

end Machine

end Sys2Proof
end

section
/-! STATUS field by field (R26), and its value while BUSY = 1 (R121). -/

namespace Sys2Proof.Machine

section
variable (used : BitVec 6) (errCode : BitVec 4) (err lovf done part busy : BitVec 1)

/-- The flags of STATUS are its bits 4 to 0 (R26). -/
theorem statusLayout_flags :
    (statusLayout used errCode err lovf done part busy).getLsbD 0 = busy.getLsbD 0 ∧
    (statusLayout used errCode err lovf done part busy).getLsbD 1 = part.getLsbD 0 ∧
    (statusLayout used errCode err lovf done part busy).getLsbD 2 = done.getLsbD 0 ∧
    (statusLayout used errCode err lovf done part busy).getLsbD 3 = lovf.getLsbD 0 ∧
    (statusLayout used errCode err lovf done part busy).getLsbD 4 = err.getLsbD 0 := by
  simp only [statusLayout, BitVec.getLsbD_append, Nat.reduceSub, Nat.reduceLT, reduceIte, and_self]

/-- ERRCODE and USED stand in STATUS where R26 puts them. -/
theorem statusLayout_fields :
    (statusLayout used errCode err lovf done part busy).extractLsb' 8 4 = errCode ∧
    (statusLayout used errCode err lovf done part busy).extractLsb' 16 6 = used := by
  simp (disch := omega) only [statusLayout, BitVec.extractLsb'_append_eq_of_le,
    BitVec.extractLsb'_append_eq_of_add_le, Nat.reduceSub, BitVec.extractLsb'_eq_self, and_self]

/-- The reserved bits of STATUS are 0 (R26). -/
theorem statusLayout_reserved :
    (statusLayout used errCode err lovf done part busy).extractLsb' 5 3 = 0 ∧
    (statusLayout used errCode err lovf done part busy).extractLsb' 12 4 = 0 ∧
    (statusLayout used errCode err lovf done part busy).extractLsb' 22 10 = 0 := by
  simp (disch := omega) only [statusLayout, BitVec.extractLsb'_append_eq_of_le,
    BitVec.extractLsb'_append_eq_of_add_le, Nat.reduceSub, BitVec.extractLsb'_eq_self, BitVec.ofNat_eq_ofNat, and_self]

end

/-- BUSY, ERR and ERRCODE are exact whatever the free value is (R121). -/
theorem statusWordBusy_exact (s : State) (d : Word) :
    (statusWordBusy s d).getLsbD 0 = s.busy ∧ (statusWordBusy s d).getLsbD 4 = s.err ∧
    (statusWordBusy s d).extractLsb' 8 4 = s.errCode := by
  simp only [statusWordBusy, statusLayout_flags, statusLayout_fields, BitVec.getLsbD_ofBool, decide_true,
    Bool.true_and, and_self]

/-- PARTIAL, DONE, LOVF and USED are the free value's bits at their places (R121). -/
theorem statusWordBusy_free (s : State) (d : Word) :
    (statusWordBusy s d).extractLsb' 1 3 = d.extractLsb' 1 3 ∧
    (statusWordBusy s d).extractLsb' 16 6 = d.extractLsb' 16 6 := by
  have hflag {k : Nat} (hk : k = 1 ∨ k = 2 ∨ k = 3) : (statusWordBusy s d).getLsbD k = d.getLsbD k := by
    obtain rfl | rfl | rfl := hk <;> simp only [statusWordBusy, statusLayout_flags, BitVec.getLsbD_extractLsb',
      Nat.reduceLT, decide_true, Bool.true_and, Nat.add_zero]
  refine ⟨BitVec.eq_of_getLsbD_eq fun i hi => ?_, (statusLayout_fields ..).2⟩
  rw [BitVec.getLsbD_extractLsb', BitVec.getLsbD_extractLsb', hflag (by omega)]

theorem statusWordBusy_reserved (s : State) (d : Word) :
    (statusWordBusy s d).extractLsb' 5 3 = 0 ∧ (statusWordBusy s d).extractLsb' 12 4 = 0 ∧
    (statusWordBusy s d).extractLsb' 22 10 = 0 :=
  statusLayout_reserved ..

end Sys2Proof.Machine
end

section
/-! Reads of the window while BUSY = 1 (R35, R121), and the step that asserts reset (R117). -/

namespace Sys2Proof.Machine

/-- What a register reads as while BUSY = 1 does not depend on what comes next. -/
@[simp] theorem busyValue_withInputs (r : Reg) (rest : List Event) (s : State) (d : Word) :
    busyValue r (withInputs rest s) d = busyValue r s d := by
  cases r <;> rfl

theorem step_read_of_busy {r : Reg} {rest : List Event} {s : State} (hb : s.busy = true)
    (h : AccessNext (.read .bits32 (regOffset r)) rest s) :
    step s = .next { answered (.readData (busyValue r s (Config.unspecifiedRead s.draws))) rest s with
      draws := s.draws + 1 } := by
  rw [step_read h, readRegister, withInputs_busy, hb, busyValue_withInputs]
  rfl

/-- COUNT, H and DATA read as the free value while BUSY = 1 (R121). -/
theorem busyValue_of_view {r : Reg} (hcmd : r ≠ .cmd) (hstatus : r ≠ .status) (s : State) (d : Word) :
    busyValue r s d = d := by
  cases r with
  | cmd => exact absurd rfl hcmd
  | status => exact absurd rfl hstatus
  | countLo | countHi | h i | data j => rfl

/-- Settles O35: the step of a read while BUSY = 1, and its value register by register. -/
theorem busyReads : Obligations.BusyReads := by
  intro s r rest hb hnext
  refine ⟨_, step_read_of_busy hb hnext, ?cmd, fun hcmd hstatus => busyValue_of_view hcmd hstatus s _, ?status⟩
  case cmd =>
    rintro rfl
    rfl
  case status =>
    rintro rfl
    obtain ⟨hbusy, herr, hcode⟩ := statusWordBusy_exact s (Config.unspecifiedRead s.draws)
    obtain ⟨hflags, hused⟩ := statusWordBusy_free s (Config.unspecifiedRead s.draws)
    obtain ⟨hlow, hmid, hhigh⟩ := statusWordBusy_reserved s (Config.unspecifiedRead s.draws)
    exact ⟨hbusy.trans hb, herr, hcode, hlow, hmid, hhigh, hflags, hused⟩

theorem step_resetAssert {rest : List Event} {s : State} (h : s.inputs = .resetAssert :: rest) :
    step s = .next (applyReset (withInputs rest s)) := by
  rw [step, runNext, h]
  rfl

/-- Settles O46: the step is `applyReset`, whatever is pending. -/
theorem resetDiscardsThePendingCommand : Obligations.ResetDiscardsThePendingCommand :=
  fun _ _ h => step_resetAssert h

end Sys2Proof.Machine
end

section
/-! The command encoding in both directions (30_encoding.md section 2). -/

namespace Sys2Proof

/-- Settles O1: the canonical word of a well-formed command is the one word that decodes to it. -/
theorem decodeOfEncode : Obligations.DecodeOfEncode := fun i hwf =>
  (decode_eq_command_iff_encode (encode i) i).2 ⟨hwf, rfl⟩

/-- Settles O2: a word that decodes to a command is its canonical one. -/
theorem encodeOfDecode : Obligations.EncodeOfDecode := fun v i hv =>
  ((decode_eq_command_iff_encode v i).1 hv).imp_right Eq.symm

/-- Settles O4: the ten words are closed terms, so the decoder is evaluated on each. -/
theorem decodedVectors : Obligations.DecodedVectors := by
  unfold Obligations.DecodedVectors
  decide

end Sys2Proof
end

section
/-! Ch (R64) and Maj (R65) bit by bit. -/

namespace Sys2Proof.Machine

theorem getLsbD_ch (x y z : Word) {i : Nat} (hi : i < 32) :
    (ch x y z).getLsbD i = if x.getLsbD i then y.getLsbD i else z.getLsbD i := by
  rw [ch, BitVec.getLsbD_xor, BitVec.getLsbD_and, BitVec.getLsbD_and, BitVec.getLsbD_not, decide_eq_true hi,
    Bool.true_and]
  cases x.getLsbD i <;> simp

theorem getLsbD_maj (x y z : Word) (i : Nat) :
    (maj x y z).getLsbD i = true ↔ 2 ≤ (x.getLsbD i).toNat + (y.getLsbD i).toNat + (z.getLsbD i).toNat := by
  rw [maj, BitVec.getLsbD_xor, BitVec.getLsbD_xor, BitVec.getLsbD_and, BitVec.getLsbD_and, BitVec.getLsbD_and]
  generalize x.getLsbD i = a, y.getLsbD i = b, z.getLsbD i = c
  revert a b c
  decide

theorem ch_allOnes (y z : Word) : ch 0xFFFFFFFF y z = y := by
  refine BitVec.eq_of_getLsbD_eq fun i hi => ?_
  have hbit : (0xFFFFFFFF : Word).getLsbD i = true := (BitVec.getLsbD_allOnes (v := 32)).trans (decide_eq_true hi)
  rw [getLsbD_ch _ _ _ hi, hbit, if_pos rfl]

theorem ch_zero (y z : Word) : ch 0 y z = z := by
  refine BitVec.eq_of_getLsbD_eq fun i hi => ?_
  rw [getLsbD_ch _ _ _ hi, BitVec.ofNat_eq_ofNat, BitVec.getLsbD_zero, if_neg Bool.false_ne_true]

theorem ch_same (x y : Word) : ch x y y = y := by
  refine BitVec.eq_of_getLsbD_eq fun i hi => ?_
  rw [getLsbD_ch _ _ _ hi, ite_self]

/-- Settles O7: the corner cases follow from the bit rule, and the example is evaluated. -/
theorem chooseBits : Obligations.ChooseBits :=
  ⟨fun x y z _ hi => getLsbD_ch x y z hi, fun y z => ⟨ch_allOnes y z, ch_zero y z⟩, ch_same, by decide⟩

theorem maj_same (x z : Word) : maj x x z = x := by
  rw [maj, BitVec.and_self, BitVec.xor_assoc, BitVec.xor_self, BitVec.xor_zero]

theorem maj_swap_left (x y z : Word) : maj x y z = maj y x z := by
  rw [maj, maj, BitVec.and_comm x y, BitVec.xor_assoc, BitVec.xor_assoc, BitVec.xor_comm (x &&& z)]

theorem maj_swap_right (x y z : Word) : maj x y z = maj x z y := by
  rw [maj, maj, BitVec.and_comm y z, BitVec.xor_comm (x &&& y)]

/-- Settles O8: the count of the bits, the algebra of `and` and `xor`, and the values evaluated. -/
theorem majorityBits : Obligations.MajorityBits :=
  ⟨fun x y z i _ => getLsbD_maj x y z i, maj_same, fun x y z => ⟨maj_swap_left x y z, maj_swap_right x y z⟩,
    by decide, by decide, by decide⟩

end Sys2Proof.Machine
end

section
/-! The constant tables against their construction (41_constants.md): each prime is found by counting the primes below
it, and each root is its whole part followed by the word of the table. -/

namespace Sys2Proof.Machine

/-- The first 64 primes. -/
def firstPrimes : Vector Nat 64 :=
  ⟨⟨[2, 3, 5, 7, 11, 13, 17, 19, 23, 29, 31, 37, 41, 43, 47, 53] ++
    [59, 61, 67, 71, 73, 79, 83, 89, 97, 101, 103, 107, 109, 113, 127, 131] ++
    [137, 139, 149, 151, 157, 163, 167, 173, 179, 181, 191, 193, 197, 199, 211, 223] ++
    [227, 229, 233, 239, 241, 251, 257, 263, 269, 271, 277, 281, 283, 293, 307, 311]⟩, rfl⟩

/-- Trial division below 19, which decides primality below 19². -/
def passesTrials (n : Nat) : Bool := decide (2 ≤ n ∧ ∀ m : Nat, m < 19 → m ∣ n → m = 1 ∨ m = n)

theorem passesTrials_iff_prime {n : Nat} (hn : n < 19 ^ 2) : passesTrials n = true ↔ n.Prime := by
  rw [passesTrials, decide_eq_true_iff]
  refine ⟨fun ⟨htwo, hdiv⟩ => ?_, fun hp => ⟨hp.two_le, fun m _ hm => hp.eq_one_or_self_of_dvd m hm⟩⟩
  by_contra hcomposite
  have hsmall : n.minFac < 19 :=
    lt_of_pow_lt_pow_left₀ 2 (by decide) ((Nat.minFac_sq_le_self (by omega) hcomposite).trans_lt hn)
  obtain hone | hself := hdiv n.minFac hsmall n.minFac_dvd
  · exact absurd (Nat.minFac_eq_one_iff.1 hone) (by omega)
  · exact hcomposite (Nat.prime_def_minFac.2 ⟨htwo, hself⟩)

/-- Entry `t` passes the trials, and t numbers below it do. -/
theorem firstPrimes_trials (t : Fin 64) : firstPrimes[t] < 19 ^ 2 ∧ passesTrials firstPrimes[t] = true ∧
    Nat.count (fun n => passesTrials n = true) firstPrimes[t] = t.val := by
  revert t
  decide +kernel

theorem count_prime_eq_count_trials {n : Nat} (hn : n < 19 ^ 2) :
    Nat.count Nat.Prime n = Nat.count (fun k => passesTrials k = true) n :=
  le_antisymm (Nat.count_mono_left fun _ hk => (passesTrials_iff_prime (hk.trans hn)).2)
    (Nat.count_mono_left fun _ hk => (passesTrials_iff_prime (hk.trans hn)).1)

/-- Entry `t` of the table is the t-th prime. -/
theorem nth_prime_eq_firstPrimes (t : Fin 64) : Nat.nth Nat.Prime t.val = firstPrimes[t] := by
  obtain ⟨hbound, htrials, hcount⟩ := firstPrimes_trials t
  have hindex : Nat.count Nat.Prime firstPrimes[t] = t.val := (count_prime_eq_count_trials hbound).trans hcount
  simpa only [hindex] using Nat.nth_count ((passesTrials_iff_prime hbound).1 htrials)

/-- A root whose whole part is `r` and whose first 32 fractional bits are `w`, in units of 2^-32. -/
def rootOf (r : Nat) (w : Word) : Nat := r * 2 ^ 32 + w.toNat

theorem ofNat_rootOf (r : Nat) (w : Word) : BitVec.ofNat 32 (rootOf r w) = w := by
  refine BitVec.eq_of_toNat_eq ?_
  rw [rootOf, BitVec.toNat_ofNat, Nat.mul_add_mod_self_right, Nat.mod_eq_of_lt w.isLt]

/-- K[t] completes the cube root of the t-th prime (R68). -/
theorem roundConstants_cube_root (t : Fin 64) : ∃ r < 7, rootOf r roundConstants[t] ^ 3 ≤ firstPrimes[t] * 2 ^ 96 ∧
    firstPrimes[t] * 2 ^ 96 < (rootOf r roundConstants[t] + 1) ^ 3 := by
  revert t
  decide +kernel

/-- IV[i] completes the square root of the i-th prime (R69). -/
theorem initialHash_square_root (i : Fin 8) : ∃ r < 5,
    rootOf r initialHash[i] ^ 2 ≤ firstPrimes[i.castLE (m := 64) (by decide)] * 2 ^ 64 ∧
    firstPrimes[i.castLE (m := 64) (by decide)] * 2 ^ 64 < (rootOf r initialHash[i] + 1) ^ 2 := by
  revert i
  decide +kernel

/-- Settles O10: the roots are those of the table of primes, whose entries are the t-th primes. -/
theorem constantsFromPrimes : Obligations.ConstantsFromPrimes := by
  refine ⟨fun t => ?cube, fun i => ?square⟩
  case cube =>
    obtain ⟨r, -, hle, hlt⟩ := roundConstants_cube_root t
    rw [nth_prime_eq_firstPrimes t]
    exact ⟨_, hle, hlt, (ofNat_rootOf r _).symm⟩
  case square =>
    obtain ⟨r, -, hle, hlt⟩ := initialHash_square_root i
    rw [← Fin.val_castLE (by decide : 8 ≤ 64) i, nth_prime_eq_firstPrimes]
    exact ⟨_, hle, hlt, (ofNat_rootOf r _).symm⟩

end Sys2Proof.Machine
end

section
/-! The commands (45_commands.md): what each effect leaves as it is, its fields in the model's own words, and the
engine's step that performs it. -/

namespace Sys2Proof.Machine

/-! ### What no command touches -/

@[simp] theorem effectOf_err (i : Instr) (s : State) : (effectOf i s).err = s.err := by
  cases i <;> simp [effectOf]
@[simp] theorem effectOf_errCode (i : Instr) (s : State) : (effectOf i s).errCode = s.errCode := by
  cases i <;> simp [effectOf]
@[simp] theorem effectOf_pending (i : Instr) (s : State) : (effectOf i s).pending = s.pending := by
  cases i <;> simp [effectOf]
@[simp] theorem effectOf_resetAsserted (i : Instr) (s : State) : (effectOf i s).resetAsserted = s.resetAsserted := by
  cases i <;> simp [effectOf]
@[simp] theorem effectOf_inputs (i : Instr) (s : State) : (effectOf i s).inputs = s.inputs := by
  cases i <;> simp [effectOf]

/-! ### UPDATE (R92) -/

theorem updateEffect_of_full (s : State) : updateEffect 64 s = { s with
    hash := compress s.hash (lowBlock s.buf)
    count := s.count + 64
    lovf := s.lovf || decide (2 ^ 61 ≤ s.count.toNat + 64) } := by
  have hfull : byteCount 64 = 64 := rfl
  rw [updateEffect, if_pos hfull, countAdd, countAfter_eq_add]
  rfl

theorem updateEffect_of_lt {n : BitVec 7} (hn : n.toNat < 64) (s : State) : updateEffect n s = { s with
    count := s.count + n.setWidth 64
    lovf := s.lovf || decide (2 ^ 61 ≤ s.count.toNat + n.toNat)
    used := n.setWidth 6
    phase := .partialBlock } := by
  have hshort : byteCount n ≠ 64 := hn.ne
  rw [updateEffect, if_neg hshort, countAdd, countAfter_eq_add]
  rfl

/-- Settles O22: INIT is well-formed and allowed in every phase, and its effect is R91's. -/
theorem initStartsASession : Obligations.InitStartsASession := fun _ hc =>
  exec_accepted hc rfl rfl

/-- Settles O23: UPDATE 64 is accepted in ABSORB and takes the branch of a full block. -/
theorem updateFullBlock : Obligations.UpdateFullBlock := by
  intro s hc hphase
  have hallowed : allowed (.update 64) s.phase = true := (allowed_update_iff 64 s.phase).2 hphase
  rw [exec_accepted hc rfl hallowed, effectOf, updateEffect_of_full]

/-- Settles O24: a shorter UPDATE is accepted in ABSORB and takes the other branch. -/
theorem updateShortBlock : Obligations.UpdateShortBlock := by
  intro s n hn hc hphase
  have hwf : (Instr.update n).wf = true := decide_eq_true hn.le
  rw [exec_accepted hc hwf ((allowed_update_iff n s.phase).2 hphase), effectOf, updateEffect_of_lt hn]

/-! ### The stops of the engine's step -/

theorem exec_of_inconsistent {s : State} (hc : s.consistent = false) (i : Instr) :
    exec i s = .fault .invariantViolation := by
  rw [exec_eq_perform, perform, hc]
  rfl

/-- Settles O29: past the test of R29 the step asks whether the command is accepted. -/
theorem unacceptedCommandFaults : Obligations.UnacceptedCommandFaults := by
  intro s i hc hunaccepted
  have hguard : ¬ (i.wf && allowed i s.phase) = true := mt (Bool.and_eq_true _ _).mp hunaccepted
  rw [exec_eq_perform, perform, if_pos hc, if_neg hguard]

/-- What the pending command leaves, in a state that meets the invariant. -/
theorem State.Inv.exec_pending {s : State} (hs : s.Inv) {i : Instr} (hp : s.pending = some i) :
    exec i s = .next { effectOf i s with pending := none } :=
  have ⟨hwf, hallowed⟩ := hs.accepted i hp
  exec_accepted hs.consistent hwf hallowed

/-- Settles O28: the invariant has the pending command accepted, and no effect touches the error record. -/
theorem engineStepNeverFails : Obligations.EngineStepNeverFails :=
  ⟨fun s i hs hp => ⟨_, hs.exec_pending hp, rfl, effectOf_err i s, effectOf_errCode i s⟩,
    fun _ i hc => exec_of_inconsistent hc i⟩

/-! ### The engine's turn (R90) -/

theorem engineTurn_of_pending {s : State} {i : Instr} (hp : s.pending = some i) (hr : s.resetAsserted = false) :
    engineTurn s = exec i s := by
  simp only [engineTurn, hr, hp, Bool.false_eq_true, if_false]

theorem engineTurn_of_rest {s : State} (h : s.pending = none ∨ s.resetAsserted = true) : engineTurn s = .next s := by
  rw [engineTurn]
  split
  next => rfl
  next hr => rw [h.resolve_right hr]

theorem step_of_nil {s : State} (h : s.inputs = []) : step s = engineTurn s := by
  rw [step, runNext, h]

theorem step_of_engineTurn {s : State} {rest : List Event} (h : s.inputs = .engineTurn :: rest) :
    step s = engineTurn (withInputs rest s) := by
  rw [step, runNext, h]
  rfl

/-- A command word its PHASE accepts is performed by the next step: the engine's turn is put first, or comes because no
event is left (log 8). -/
theorem step_loadCommandWord {s : State} {v : Word} {i : Instr} (hd : decode v = .command i)
    (ha : allowed i s.phase = true) :
    step (loadCommandWord v s) = exec i { s with pending := some i, resetAsserted := false } := by
  have hload : loadCommandWord v s =
      { s with pending := some i, resetAsserted := false, inputs := engineTurnFirst s.inputs } := by
    simp only [loadCommandWord, hd, ha, if_true]
  rw [hload]
  cases hi : s.inputs with
  | nil =>
    rw [step_of_nil rfl, engineTurn_of_pending rfl rfl, engineTurnFirst, ← hi]
  | cons e rest =>
    rw [step_of_engineTurn (rest := e :: rest) rfl, engineTurn_of_pending rfl rfl, ← hi]
    rfl

/-- Settles O18: a word placed by `withFetchWord` is the word itself, and the engine has its turn next. -/
theorem stepRunsTheDecodedCommand : Obligations.StepRunsTheDecodedCommand := by
  refine ⟨fun s w i hd ha => ?fetch, fun s i rest hp hr hin => ?turn, fun s i hp hr hin => ?last⟩
  case fetch =>
    have hword : BitVec.ofNat 32 (w.toNat % 2 ^ 32) = w := by
      rw [Nat.mod_eq_of_lt w.isLt, BitVec.ofNat_toNat, BitVec.setWidth_eq]
    rw [State.withFetchWord, hword, step_loadCommandWord hd ha]
  case turn => rw [step_of_engineTurn hin, engineTurn_of_pending (s := withInputs rest s) hp hr]
  case last => rw [step_of_nil hin, engineTurn_of_pending hp hr]

/-- Settles O19: the engine's turn does nothing then, and taking the event is all the step does. -/
theorem engineRestsWhenNothingIsPending : Obligations.EngineRestsWhenNothingIsPending := by
  intro s hrest rest
  refine ⟨fun hin => ?_, fun hin => ?_⟩
  · rw [step_of_nil hin, engineTurn_of_rest hrest]
  · rw [step_of_engineTurn hin, engineTurn_of_rest (s := withInputs rest s) hrest]

/-! ### INIT and reset (R116) -/

theorem atReset_applyReset (s : State) : AtReset (applyReset s) :=
  ⟨⟨rfl, rfl, rfl, rfl, rfl, rfl⟩, rfl, rfl, rfl⟩

/-- Settles O48: INIT sets the registers of the session and PENDING, which are all but the error record. -/
theorem initAndResetDiffer : Obligations.InitAndResetDiffer := by
  intro s t h
  obtain ⟨-, -, -, rfl⟩ := (exec_eq_next .init s t).1 h
  exact ⟨⟨⟨rfl, rfl, rfl, rfl, rfl, rfl⟩, rfl, rfl, rfl⟩, rfl, rfl, atReset_applyReset s⟩

end Sys2Proof.Machine
end

section
/-! The invariant of reachable states: reset meets it, every operation of a step keeps it (10_state.md section 7), and
so no run from a state that meets it faults (60_exceptions.md section 1). -/

namespace Sys2Proof.Machine

/-- Settles O55: the reset values meet each relation. -/
theorem resetMeetsTheInvariant : Obligations.ResetMeetsTheInvariant where
  consistent := by decide
  recorded := by decide
  accepted := by simp [State.reset]
  length := by decide
  tail := by decide
  held := fun _ => atReset_reset

/-- A state at the reset values meets the invariant, whether reset is asserted or not. -/
theorem AtReset.inv {s : State} (h : AtReset s) : s.Inv where
  consistent :=
    (consistent_congr h.phase h.used h.err h.errCode : s.consistent = State.reset.consistent).trans
      resetMeetsTheInvariant.consistent
  recorded := fun herr => absurd (h.err.symm.trans herr) Bool.false_ne_true
  accepted := fun i hp => absurd (h.pending.symm.trans hp) (Option.some_ne_none i).symm
  length := by
    rw [h.lovf, h.count]
    exact resetMeetsTheInvariant.length
  tail := by
    rw [h.used, h.count]
    exact resetMeetsTheInvariant.tail
  held := fun _ => h

/-- The registers of a quiet step are as before, so they stay at the reset values. -/
theorem Quiet.atReset {s t : State} (h : Quiet s t) (hs : AtReset s) : AtReset t :=
  ⟨⟨h.hash.trans hs.hash, h.buf.trans hs.buf, h.count.trans hs.count, h.used.trans hs.used, h.lovf.trans hs.lovf,
    h.phase.trans hs.phase⟩, h.err.trans hs.err, h.errCode.trans hs.errCode, h.pending.trans hs.pending⟩

/-- A quiet step keeps the invariant unless it asserts reset. -/
theorem Quiet.inv {s t : State} (h : Quiet s t) (hs : s.Inv) (hr : t.resetAsserted = true → s.resetAsserted = true) :
    t.Inv where
  consistent := (consistent_congr h.phase h.used h.err h.errCode).trans hs.consistent
  recorded := by
    rw [h.err, h.errCode]
    exact hs.recorded
  accepted := by
    rw [h.pending, h.phase]
    exact hs.accepted
  length := by
    rw [h.lovf, h.count]
    exact hs.length
  tail := by
    rw [h.used, h.count]
    exact hs.tail
  held := fun ht => h.atReset (hs.held (hr ht))

/-! ### The engine's step -/

section
variable {s : State}

theorem initEffect_inv (hs : s.Inv) (hr : s.resetAsserted = false) :
    State.Inv { initEffect s with pending := none } where
  consistent := by
    obtain ⟨-, herr, hcode⟩ := (consistent_iff s).1 hs.consistent
    exact (consistent_iff _).2 ⟨fun _ => rfl, herr, hcode⟩
  recorded := hs.recorded
  accepted := by simp
  length := fun _ => (by decide : (0 : Count).toNat < 2 ^ 61)
  tail := rfl
  held := fun hheld => absurd (hr.symm.trans hheld) Bool.false_ne_true

theorem finalEffect_inv (hs : s.Inv) (hr : s.resetAsserted = false) :
    State.Inv { finalEffect s with pending := none } where
  consistent := by
    obtain ⟨-, herr, hcode⟩ := (consistent_iff s).1 hs.consistent
    exact (consistent_iff _).2 ⟨by simp, herr, hcode⟩
  recorded := hs.recorded
  accepted := by simp
  length := hs.length
  tail := hs.tail
  held := fun hheld => absurd (hr.symm.trans hheld) Bool.false_ne_true

/-- USED after an accepted UPDATE: 0 after a full block, n after a shorter one (R92). -/
theorem updateEffect_used_toNat (n : BitVec 7) (hzero : s.used = 0) :
    (updateEffect n s).used.toNat = n.toNat % 64 := by
  rw [updateEffect_used]
  split
  next hfull =>
    have h : n.toNat = 64 := hfull
    rw [hzero, h]
    rfl
  next => rw [BitVec.toNat_setWidth]

theorem updateEffect_inv {n : BitVec 7} (hs : s.Inv) (hr : s.resetAsserted = false) (hphase : s.phase = .absorb)
    (hn : n.toNat ≤ 64) : State.Inv { updateEffect n s with pending := none } := by
  obtain ⟨hused, herr, hcode⟩ := (consistent_iff s).1 hs.consistent
  have hzero : s.used = 0 := hused hphase
  refine ⟨(consistent_iff _).2 ⟨fun hp => ?used, ?err, ?code⟩, ?recorded, by simp, ?length, ?tail, ?held⟩
  case used =>
    by_cases hfull : byteCount n = 64
    · simpa [hfull] using hzero
    · simp [hfull] at hp
  case err => simpa using herr
  case code => simpa using hcode
  case recorded => simpa using hs.recorded
  case length =>
    intro hlovf
    simp only [updateEffect_lovf, lovfAfter, Bool.or_eq_false_iff, exactTotal, byteCount] at hlovf
    have hbound := of_decide_eq_false hlovf.2
    simp only [updateEffect_count, countAfter_toNat]
    omega
  case tail =>
    have htail : s.count.toNat % 64 = 0 := by
      rw [← hs.tail, hzero]
      rfl
    simp only [updateEffect_used_toNat n hzero, updateEffect_count, countAfter_toNat]
    omega
  case held => simp [hr]

/-- The engine's step keeps the invariant (R90). -/
theorem exec_inv {t : State} {i : Instr} (hs : s.Inv) (hr : s.resetAsserted = false) (h : exec i s = .next t) :
    t.Inv := by
  obtain ⟨-, hwf, hallowed, rfl⟩ := (exec_eq_next i s t).1 h
  cases i with
  | init => exact initEffect_inv hs hr
  | update n => exact updateEffect_inv hs hr ((allowed_update_iff n s.phase).1 hallowed) (of_decide_eq_true hwf)
  | final => exact finalEffect_inv hs hr

/-! ### The writes of the window -/

theorem errorCode_number_range (c : ErrorCode) : c.number ≠ 0 ∧ c.number.toNat ≤ 4 := by
  cases c <;> decide

theorem raiseCmdError_inv (c : ErrorCode) (hs : s.Inv) (hr : s.resetAsserted = false) : (raiseCmdError c s).Inv := by
  obtain ⟨hused, herr, hcode⟩ := (consistent_iff s).1 hs.consistent
  obtain ⟨hne, hle⟩ := errorCode_number_range c
  refine ⟨(consistent_iff _).2 ⟨hused, by simp, ?code⟩, fun _ => ?recorded, hs.accepted, hs.length, hs.tail,
    fun hheld => absurd (hr.symm.trans hheld) Bool.false_ne_true⟩
  case code =>
    rw [raiseCmdError_errCode]
    split
    next => exact hcode
    next => exact hle
  case recorded =>
    rw [raiseCmdError_errCode]
    split
    next herr => exact hs.recorded herr
    next => exact hne

theorem issueCommand_inv (v : Word) (hs : s.Inv) (hr : s.resetAsserted = false) : (issueCommand v s).Inv := by
  obtain ⟨-, h⟩ | ⟨-, c, -, h⟩ | ⟨-, i, -, -, h⟩ | ⟨-, i, hd, ha, h⟩ := issueCommand_cases v s <;> rw [h]
  · exact raiseCmdError_inv _ hs hr
  · exact raiseCmdError_inv _ hs hr
  · exact raiseCmdError_inv _ hs hr
  · have haccepted : ∀ j, some i = some j → j.wf = true ∧ allowed j s.phase = true := by
      rintro j ⟨⟩
      exact ⟨((decode_eq_command_iff_encode v i).1 hd).1, ha⟩
    exact ⟨hs.consistent, hs.recorded, haccepted, hs.length, hs.tail,
      fun hheld => absurd (hr.symm.trans hheld) Bool.false_ne_true⟩

theorem clearError_inv (hs : s.Inv) (hr : s.resetAsserted = false) : (clearError s).Inv := by
  obtain ⟨hused, -, -⟩ := (consistent_iff s).1 hs.consistent
  exact ⟨(consistent_iff _).2 ⟨hused, fun _ => rfl, by simp⟩, by simp, hs.accepted, hs.length, hs.tail,
    fun hheld => absurd (hr.symm.trans hheld) Bool.false_ne_true⟩

theorem writeStatus_inv (v : Word) (hs : s.Inv) (hr : s.resetAsserted = false) : (writeStatus v s).Inv := by
  rw [writeStatus]
  split
  · exact clearError_inv hs hr
  · exact hs

/-- Outside reset the invariant says nothing of BUF. -/
theorem State.Inv.withBuf (hs : s.Inv) (hr : s.resetAsserted = false) (buf : Buffer) :
    State.Inv { s with buf := buf } :=
  ⟨hs.consistent, hs.recorded, hs.accepted, hs.length, hs.tail,
    fun hheld => absurd (hr.symm.trans hheld) Bool.false_ne_true⟩

theorem writeData_inv (j : Fin 16) (v : Word) (hs : s.Inv) (hr : s.resetAsserted = false) : (writeData j v s).Inv := by
  rw [writeData]
  split
  · exact raiseCmdError_inv _ hs hr
  · exact hs.withBuf hr _

end

theorem State.Inv.withInputs {s : State} (hs : s.Inv) (rest : List Event) : (withInputs rest s).Inv :=
  (SameEngine.outside s rest s.responses s.draws).inv hs

theorem State.Inv.respond {s : State} (hs : s.Inv) (r : BusResponse) : (respond r s).Inv :=
  (SameEngine.outside s s.inputs (r :: s.responses) s.draws).inv hs

/-! ### The reset input over a step -/

@[simp] theorem writeRegister_resetAsserted (r : Reg) (v : Word) (s : State) :
    (writeRegister r v s).resetAsserted = s.resetAsserted := by
  cases r <;> simp [writeRegister]
@[simp] theorem writeRegister_inputs (r : Reg) (v : Word) (s : State) : (writeRegister r v s).inputs = s.inputs := by
  cases r <;> simp [writeRegister]

@[simp] theorem accessWindow_resetAsserted (a : Access) (s : State) :
    (accessWindow a s).resetAsserted = s.resetAsserted := by
  obtain ⟨-, h⟩ | ⟨_, _, _, -, -, h⟩ | ⟨_, _, _, _, -, -, h⟩ := accessWindow_cases a s <;> simp [h]
@[simp] theorem accessWindow_inputs (a : Access) (s : State) : (accessWindow a s).inputs = s.inputs := by
  obtain ⟨-, h⟩ | ⟨_, _, _, -, -, h⟩ | ⟨_, _, _, _, -, -, h⟩ := accessWindow_cases a s <;> simp [h]

/-- An access moves neither the reset input nor the events to come. -/
theorem hostAccess_frame {a : Access} {s t : State} (h : hostAccess a s = .next t) :
    t.resetAsserted = s.resetAsserted ∧ t.inputs = s.inputs := by
  obtain ⟨-, -, rfl⟩ | ⟨-, _, _, -, rfl⟩ | ⟨-, -, rfl⟩ := hostAccess_cases h <;> simp

/-- The engine's turn moves neither the reset input nor the events to come. -/
theorem engineTurn_frame {s t : State} (h : engineTurn s = .next t) :
    t.resetAsserted = s.resetAsserted ∧ t.inputs = s.inputs := by
  obtain ⟨-, rfl⟩ | ⟨i, -, -, hexec⟩ := engineTurn_cases h
  · exact ⟨rfl, rfl⟩
  · obtain ⟨-, -, -, rfl⟩ := (exec_eq_next i s t).1 hexec
    exact ⟨effectOf_resetAsserted i s, effectOf_inputs i s⟩

/-- The two edges alone move the level of the reset input (R115). -/
theorem step_resetAsserted {s t : State} (h : step s = .next t) : t.resetAsserted =
    if s.inputs.head? = some .resetAssert then true
    else if s.inputs.head? = some .resetRelease then false
    else s.resetAsserted := by
  obtain ⟨hin, ht⟩ | ⟨e, rest, hin, ht⟩ := step_cases h
  · simp [hin, (engineTurn_frame ht).1]
  · rw [hin, List.head?_cons]
    obtain ⟨a, rfl, ht⟩ | ⟨rfl, ht⟩ | ⟨rfl, rfl⟩ | ⟨rfl, rfl⟩ := ht
    · simp [(hostAccess_frame ht).1]
    · simp [(engineTurn_frame ht).1]
    · simp
    · simp

/-- A step takes one event off those to come. -/
theorem step_inputs {s t : State} (h : step s = .next t) : t.inputs = s.inputs.tail := by
  obtain ⟨hin, ht⟩ | ⟨e, rest, hin, ht⟩ := step_cases h
  · rw [(engineTurn_frame ht).2, hin, List.tail_nil]
  · rw [hin, List.tail_cons]
    obtain ⟨a, rfl, ht⟩ | ⟨rfl, ht⟩ | ⟨rfl, rfl⟩ | ⟨rfl, rfl⟩ := ht
    · exact (hostAccess_frame ht).2
    · exact (engineTurn_frame ht).2
    · rfl
    · rfl

/-- Settles O56: reset gives the reset values, the engine's step and the three writes keep the invariant outside
reset, and any other step is quiet. -/
theorem everyStepKeepsTheInvariant : Obligations.EveryStepKeepsTheInvariant := by
  intro s t hs h
  have hs' : (withInputs s.inputs.tail s).Inv := hs.withInputs s.inputs.tail
  obtain ⟨-, rfl⟩ | ⟨i, ⟨hr, -⟩, -, hexec⟩ | ⟨v, -, hr, rfl⟩ | ⟨v, -, hr, rfl⟩ | ⟨j, v, -, hr, rfl⟩ | hquiet :=
    step_effect h
  · exact (atReset_applyReset _).inv
  · exact exec_inv hs' hr hexec
  · exact (issueCommand_inv v hs' hr).respond .writeAck
  · exact (writeStatus_inv v hs' hr).respond .writeAck
  · exact (writeData_inv j v hs' hr).respond .writeAck
  · by_cases hassert : s.inputs.head? = some .resetAssert
    · obtain ⟨rest, hin⟩ : ∃ rest, s.inputs = .resetAssert :: rest := List.head?_eq_some_iff.1 hassert
      obtain rfl := Host.Outcome.next.inj ((step_resetAssert hin).symm.trans h)
      exact (atReset_applyReset _).inv
    · refine hquiet.inv hs fun ht => ?_
      rw [step_resetAsserted h, if_neg hassert] at ht
      split at ht
      · cases ht
      · exact ht

/-! ### Every step answers, but for a refused write in reset -/

theorem step_of_cons {s : State} {e : Event} {rest : List Event} (h : s.inputs = e :: rest) :
    step s = handleEvent e (withInputs rest s) := by
  rw [step, runNext, h]

theorem exists_engineTurn {s : State} (hs : s.Inv) : ∃ t, engineTurn s = .next t := by
  by_cases hrest : s.pending = none ∨ s.resetAsserted = true
  · exact ⟨s, engineTurn_of_rest hrest⟩
  · obtain ⟨hp, hr⟩ := not_or.1 hrest
    obtain ⟨i, hi⟩ := Option.ne_none_iff_exists'.1 hp
    exact ⟨_, (engineTurn_of_pending hi (Bool.eq_false_of_not_eq_true hr)).trans (hs.exec_pending hi)⟩

/-- An access in reset is answered, or is the refused write of a register (log 11). -/
theorem accessInReset_cases (a : Access) (s : State) : (∃ t, accessInReset a s = .next t) ∨
    ∃ (r : Reg) (v : Word), a = .write .bits32 (regOffset r) v ∧ r.writable = true ∧
      accessInReset a s = .refused (.writeDuringReset (regOffset r)) := by
  cases ha : accessTarget a with
  | none => exact .inl ⟨_, by rw [accessInReset.eq_def, ha]⟩
  | some r =>
    cases a with
    | read w off => exact .inl ⟨_, by rw [accessInReset.eq_def, ha]⟩
    | write w off v =>
      obtain ⟨rfl, rfl, hr⟩ := eq_of_accessTarget_write ha
      exact .inr ⟨r, v, rfl, hr, by rw [accessInReset.eq_def, ha]⟩

theorem hostAccess_of_released {s : State} (hr : s.resetAsserted = false) (hc : s.consistent = true) (a : Access) :
    hostAccess a s = .next (accessWindow a s) := by
  simp only [hostAccess, hr, hc, Bool.false_eq_true, if_false, if_true]

theorem hostAccess_of_reset {s : State} (hr : s.resetAsserted = true) (a : Access) :
    hostAccess a s = accessInReset a s := by
  rw [hostAccess, if_pos hr]

/-- From a state that meets the invariant a step answers a next state, or refuses a register write in reset. -/
theorem step_outcome {s : State} (hs : s.Inv) : (∃ t, step s = .next t) ∨
    (s.resetAsserted = true ∧ ∃ (r : Reg) (v : Word), s.inputs.head? = some (hostWrite r v) ∧ r.writable = true ∧
      step s = .refused (.writeDuringReset (regOffset r))) := by
  cases hin : s.inputs with
  | nil => exact .inl (step_of_nil hin ▸ exists_engineTurn hs)
  | cons e rest =>
    rw [step_of_cons hin]
    cases e with
    | engineTurn => exact .inl (exists_engineTurn (hs.withInputs rest))
    | resetAssert | resetRelease => exact .inl ⟨_, rfl⟩
    | access a =>
      rw [handleEvent]
      cases hr : s.resetAsserted with
      | false => exact .inl ⟨_, hostAccess_of_released (s := withInputs rest s) hr hs.consistent a⟩
      | true =>
        rw [hostAccess_of_reset (s := withInputs rest s) hr]
        obtain hnext | ⟨r, v, rfl, hw, hrefused⟩ := accessInReset_cases a (withInputs rest s)
        · exact .inl hnext
        · exact .inr ⟨rfl, r, v, rfl, hw, hrefused⟩

theorem exists_step_of_released {s : State} (hs : s.Inv) (hr : s.resetAsserted = false) : ∃ t, step s = .next t :=
  (step_outcome hs).resolve_right fun ⟨hreset, _⟩ => Bool.false_ne_true (hr.symm.trans hreset)

/-! ### Runs -/

theorem run_succ_of_next {s t : State} (h : step s = .next t) (k : Nat) :
    Sys2Proof.core.run (k + 1) s = Sys2Proof.core.run k t := by
  have hstep : Sys2Proof.core.step s = .next t := h
  simp only [Host.Core.run, hstep]

theorem run_succ_of_refused {s : State} {r : Refusal} (h : step s = .refused r) (k : Nat) :
    Sys2Proof.core.run (k + 1) s = .refused r := by
  have hstep : Sys2Proof.core.step s = .refused r := h
  simp only [Host.Core.run, hstep]

/-- Settles O57: by induction on the length of the run; each step keeps the invariant, or it is the refusal that ends
the run. -/
theorem noRunFaults : Obligations.NoRunFaults := by
  intro k
  induction k with
  | zero => exact fun s _ f h => by cases h
  | succ k ih =>
    intro s hs f
    obtain ⟨t, hstep⟩ | ⟨-, r, v, -, -, hstep⟩ := step_outcome hs
    · rw [run_succ_of_next hstep]
      exact ih t (everyStepKeepsTheInvariant s t hs hstep) f
    · rw [run_succ_of_refused hstep]
      exact fun h => by cases h

/-- Settles O58: by induction on the events to come. A step that leaves the command pending stays out of reset, since
reset holds nothing pending; with no event left the engine has its turn. -/
theorem pendingCommandIsPerformed : Obligations.PendingCommandIsPerformed := by
  intro s hs hr hp
  induction hlen : s.inputs.length generalizing s with
  | zero =>
    obtain ⟨i, hi⟩ := Option.ne_none_iff_exists'.1 hp
    have hstep : step s = .next { effectOf i s with pending := none } := by
      rw [step_of_nil (List.length_eq_zero_iff.1 hlen), engineTurn_of_pending hi hr, hs.exec_pending hi]
    exact ⟨1, _, le_rfl, run_succ_of_next hstep 0, rfl⟩
  | succ n ih =>
    obtain ⟨t, hstep⟩ := exists_step_of_released hs hr
    have ht : t.Inv := everyStepKeepsTheInvariant s t hs hstep
    by_cases hdone : t.pending = none
    · exact ⟨1, t, by omega, run_succ_of_next hstep 0, hdone⟩
    · have hreleased : t.resetAsserted = false :=
        Bool.eq_false_of_not_eq_true fun hheld => hdone (ht.held hheld).pending
      obtain ⟨k, u, hk, hrun, hu⟩ := ih t ht hreleased hdone (by simp [step_inputs hstep, hlen])
      exact ⟨k + 1, u, by omega, (run_succ_of_next hstep k).trans hrun, hu⟩

theorem step_resetRelease {rest : List Event} {s : State} (h : s.inputs = .resetRelease :: rest) :
    step s = .next (releaseReset (withInputs rest s)) := by
  rw [step_of_cons h, handleEvent]

/-- The release leaves the registers as they are. -/
theorem quiet_releaseReset (rest : List Event) (s : State) : Quiet s (releaseReset (withInputs rest s)) :=
  ⟨⟨rfl, rfl, rfl, rfl, rfl, rfl⟩, rfl, rfl, rfl⟩

/-- The step that answers a next state in reset: the release leaves the registers at the reset values, and after any
other reset is still asserted and holds them there (R115, R118). -/
theorem step_of_reset {s t : State} (hs : s.Inv) (hr : s.resetAsserted = true) (h : step s = .next t) :
    AtReset t ∧ (t.resetAsserted = false ↔ s.inputs.head? = some .resetRelease) := by
  have hlevel := step_resetAsserted h
  by_cases hrelease : s.inputs.head? = some .resetRelease
  · obtain ⟨rest, hin⟩ := List.head?_eq_some_iff.1 hrelease
    obtain rfl := Host.Outcome.next.inj ((step_resetRelease hin).symm.trans h)
    exact ⟨(quiet_releaseReset rest s).atReset (hs.held hr), iff_of_true rfl hrelease⟩
  · rw [if_neg hrelease, hr, ite_self] at hlevel
    exact ⟨(everyStepKeepsTheInvariant s t hs h).held hlevel, iff_of_false (by simp [hlevel]) hrelease⟩

/-- Settles O47: the outcomes of a step from a state that meets the invariant, and the step of the release. -/
theorem resetHoldsTheEngine : Obligations.ResetHoldsTheEngine := by
  refine ⟨fun s hs hr => ?_, fun s rest hin => step_resetRelease hin⟩
  obtain ⟨t, hstep⟩ | ⟨-, hrefused⟩ := step_outcome hs
  · exact .inl ⟨t, hstep, step_of_reset hs hr hstep⟩
  · exact .inr hrefused

end Sys2Proof.Machine
end

section
/-! The padding generator (44_padding.md section 2): what stands at each place of the buffer it leaves, and FINAL
(45_commands.md R94) by its one or two padded blocks. -/

namespace Sys2Proof.Machine

/-- Byte `k` of the length field (R11). -/
theorem be64bytes_getElem? (len : Count) {k : Nat} (hk : k < 8) :
    (be64bytes len)[k]? = some (len.extractLsb' (8 * (7 - k)) 8) := by
  match k, hk with
  | 0, _ | 1, _ | 2, _ | 3, _ | 4, _ | 5, _ | 6, _ | 7, _ => rfl

/-- The padding written from `used` on, with the length field at `e` (R81): both cases of Pad are this, for e = 56 and
e = 120. -/
theorem padding_getElem {used e : Nat} (hused : used < e) (len : Count) (buf : Buffer) {a : Nat} (ha : a < 128) :
    (putBytes e (be64bytes len) (fillZeros (used + 1) (e - 1 - used) (buf.setIfInBounds used 0x80)))[a] =
      if a < used then buf[a]
      else if a = used then 0x80
      else if a < e then 0x00
      else if a < e + 8 then len.extractLsb' (8 * (e + 7 - a)) 8
      else buf[a] := by
  rw [putBytes_getElem, fillZeros_getElem, setByte_getElem]
  rcases lt_trichotomy a used with hlt | rfl | hgt
  · rw [if_neg (by omega), if_neg (by omega), if_neg (by omega), if_pos hlt]
  · rw [if_neg (by omega), if_neg (by omega), if_pos rfl, if_neg (by omega), if_pos rfl]
  · rw [if_neg hgt.not_gt, if_neg hgt.ne']
    rcases Nat.lt_or_ge a e with hzero | hfield
    · rw [if_neg (by omega), if_pos (by omega), if_pos hzero]
    · rw [if_pos hfield, if_neg (by omega), if_neg hgt.ne, if_neg hfield.not_gt]
      split
      next hin =>
        rw [be64bytes_getElem? len (by omega), Option.getD_some, show 7 - (a - e) = e + 7 - a by omega]
      next hout => rw [List.getElem?_eq_none (by simp; omega), Option.getD_none]

theorem pad_of_le {used : Nat} (h : used ≤ 55) (len : Count) (buf : Buffer) :
    pad used len buf = (padOneBlock used len buf, 1) := if_pos h

theorem pad_of_gt {used : Nat} (h : 55 < used) (len : Count) (buf : Buffer) :
    pad used len buf = (padTwoBlocks used len buf, 2) := if_neg h.not_ge

theorem padOneBlock_getElem {used : Nat} (h : used ≤ 55) (len : Count) (buf : Buffer) {a : Nat} (ha : a < 128) :
    (padOneBlock used len buf)[a] =
      if a < used then buf[a]
      else if a = used then 0x80
      else if a < 56 then 0x00
      else if a < 64 then len.extractLsb' (8 * (63 - a)) 8
      else buf[a] :=
  padding_getElem (e := 56) (Nat.lt_succ_of_le h) len buf ha

theorem padTwoBlocks_getElem {used : Nat} (h : used ≤ 63) (len : Count) (buf : Buffer) {a : Nat} (ha : a < 128) :
    (padTwoBlocks used len buf)[a] =
      if a < used then buf[a]
      else if a = used then 0x80
      else if a < 120 then 0x00
      else len.extractLsb' (8 * (127 - a)) 8 := by
  have hplace := padding_getElem (e := 120) (h.trans_lt (by decide)) len buf ha
  rwa [if_pos (c := a < 120 + 8) ha] at hplace

/-- Settles O16: one block for used ≤ 55 and two above, each place by the lemma of its case. -/
theorem paddingFillsWholeBlocks : Obligations.PaddingFillsWholeBlocks := by
  intro used len buf hused
  rcases Nat.lt_or_ge 55 used with htwo | hone
  · have hz : (119 - used) % 64 = 119 - used := Nat.mod_eq_of_lt (by omega)
    refine ⟨_, _, _, pad_of_gt htwo len buf, rfl, by omega, fun _ => ⟨hz, rfl⟩, by omega, fun a ha => ?_⟩
    rw [padTwoBlocks_getElem hused, hz, show used + 1 + (119 - used) = 120 by omega, if_pos (c := a < 64 * 2) ha]
  · have hz : (119 - used) % 64 = 55 - used := by omega
    refine ⟨_, _, _, pad_of_le hone len buf, rfl, fun _ => ⟨hz, rfl⟩, by omega, by omega, fun a ha => ?_⟩
    rw [padOneBlock_getElem hone, hz, show used + 1 + (55 - used) = 56 by omega]

/-! ### FINAL (R94) -/

theorem allowed_final_of_ne_done {p : Phase} (h : p ≠ .done) : allowed .final p = true := by
  cases p with
  | absorb | partialBlock => rfl
  | done => exact absurd rfl h

theorem final_accepted {s : State} (hc : s.consistent = true) (hphase : s.phase ≠ .done) :
    exec .final s = .next { finalEffect s with pending := none } :=
  exec_accepted hc rfl (allowed_final_of_ne_done hphase)

theorem finalEffect_of_le {s : State} (h : s.used.toNat ≤ 55) :
    (finalEffect s).buf = padOneBlock s.used.toNat (bitLength s.count) s.buf ∧
      (finalEffect s).hash = compress s.hash (lowBlock (finalEffect s).buf) := by
  rw [finalEffect_hash, finalEffect_buf, pad_of_le h]
  exact ⟨rfl, rfl⟩

theorem finalEffect_of_gt {s : State} (h : 55 < s.used.toNat) :
    (finalEffect s).buf = padTwoBlocks s.used.toNat (bitLength s.count) s.buf ∧
      (finalEffect s).hash =
        compress (compress s.hash (lowBlock (finalEffect s).buf)) (highBlock (finalEffect s).buf) := by
  rw [finalEffect_hash, finalEffect_buf, pad_of_gt h]
  exact ⟨rfl, rfl⟩

/-- FINAL writes H, BUF and PHASE alone. -/
theorem finalEffect_eq (s : State) : finalEffect s =
    { s with hash := (finalEffect s).hash, buf := (finalEffect s).buf, phase := .done } := rfl

/-- Settles O25: the buffer is that of the one-block padding, the bit length being COUNT shifted. -/
theorem finalOneBlock : Obligations.FinalOneBlock := by
  intro s hc hphase hused
  obtain ⟨hbuf, hhash⟩ := finalEffect_of_le hused
  refine ⟨(finalEffect s).buf, fun a ha => ?_, ?_⟩
  · simp only [hbuf, padOneBlock_getElem hused _ _ ha, bitLength_eq_shiftLeft]
  · rw [final_accepted hc hphase, finalEffect_eq, hhash]

/-- Settles O26: the buffer is that of the two-block padding, whose blocks are compressed in order. -/
theorem finalTwoBlocks : Obligations.FinalTwoBlocks := by
  intro s hc hphase hused
  obtain ⟨hbuf, hhash⟩ := finalEffect_of_gt hused
  refine ⟨(finalEffect s).buf, fun a ha => ?_, ?_⟩
  · have hrange : s.used.toNat ≤ 63 := Nat.le_of_lt_succ s.used.isLt
    simp only [hbuf, padTwoBlocks_getElem hrange _ _ ha, bitLength_eq_shiftLeft]
  · rw [final_accepted hc hphase, finalEffect_eq, hhash]

theorem lowBlock_congr {b b' : Buffer} (h : ∀ (a : Nat) (ha : a < 64), b[a] = b'[a]) : lowBlock b = lowBlock b' :=
  Vector.ext fun a ha => by rw [lowBlock_getElem, lowBlock_getElem, h a ha]

theorem highBlock_congr {b b' : Buffer} (h : ∀ (a : Nat) (_ : 64 ≤ a) (ha : a < 128), b[a] = b'[a]) :
    highBlock b = highBlock b' :=
  Vector.ext fun a ha => by rw [highBlock_getElem, highBlock_getElem, h (64 + a) (by omega) (by omega)]

/-- What the padding fills depends on the bytes below `used` alone (R86). -/
theorem pad_congr {used : Nat} (hused : used ≤ 63) (len : Count) {buf buf' : Buffer}
    (hbytes : ∀ (a : Nat) (ha : a < 128), a < used → buf'[a] = buf[a]) :
    (pad used len buf').2 = (pad used len buf).2 ∧
      ∀ (a : Nat) (ha : a < 128), a < 64 * (pad used len buf).2 →
        (pad used len buf').1[a] = (pad used len buf).1[a] := by
  rcases Nat.lt_or_ge 55 used with htwo | hone
  · simp only [pad_of_gt htwo, padTwoBlocks_getElem hused, true_and]
    intro a ha _
    split
    next hlt => exact hbytes a ha hlt
    next => rfl
  · simp only [pad_of_le hone, padOneBlock_getElem hone, true_and]
    intro a ha (hin : a < 64)
    split
    next hlt => exact hbytes a ha hlt
    next => rfl

/-- The one-block padding keeps BUF[64..127]. -/
theorem pad_getElem_of_ge {used : Nat} (hused : used ≤ 55) (len : Count) (buf : Buffer) {a : Nat} (ha : a < 128)
    (hge : 64 ≤ a) : (pad used len buf).1[a] = buf[a] := by
  simp only [pad_of_le hused, padOneBlock_getElem hused _ _ ha]
  rw [if_neg (by omega), if_neg (by omega), if_neg (by omega), if_neg (by omega)]

/-- The compressions of FINAL read the padded blocks alone. -/
theorem finalHash_congr (h : HashWords) {b b' : Buffer} {blocks : Nat} (hpos : 0 < blocks)
    (hsame : ∀ (a : Nat) (ha : a < 128), a < 64 * blocks → b'[a] = b[a]) :
    finalHash h b' blocks = finalHash h b blocks := by
  have hlow : lowBlock b' = lowBlock b := lowBlock_congr fun a ha => hsame a (by omega) (by omega)
  rw [finalHash, finalHash, hlow]
  split
  next htwo => rw [highBlock_congr fun a _ ha => hsame a ha (by omega)]
  next => rfl

theorem pad_blocks_pos (used : Nat) (len : Count) (buf : Buffer) : 0 < (pad used len buf).2 := by
  unfold pad
  split <;> exact Nat.succ_pos _

/-- Settles O17: the two paddings agree on the blocks they fill, which is all the compressions read. -/
theorem staleBytesDoNotReachTheDigest : Obligations.StaleBytesDoNotReachTheDigest := by
  intro s s' t t' hhash hcount hused hbytes ht ht'
  obtain ⟨-, -, -, rfl⟩ := (exec_eq_next .final s t).1 ht
  obtain ⟨-, -, -, rfl⟩ := (exec_eq_next .final s' t').1 ht'
  have hrange : s.used.toNat ≤ 63 := Nat.le_of_lt_succ s.used.isLt
  have hpos := pad_blocks_pos s.used.toNat (bitLength s.count) s.buf
  obtain ⟨hblocks, hsame⟩ := pad_congr hrange (bitLength s.count) hbytes
  simp only [effectOf, finalEffect_hash, finalEffect_buf, hhash, hcount, hused, hblocks]
  refine ⟨finalHash_congr s.hash hpos hsame, fun a ha => hsame a _ (by omega),
    fun hone a ha hge => pad_getElem_of_ge hone _ _ ha hge, fun htwo a ha => hsame a ha ?_⟩
  rw [pad_of_gt htwo]
  exact ha

/-- Settles O27: UPDATE 0 leaves COUNT as it is and USED = 0, as it was, so it changes PHASE, which FINAL overwrites,
and LOVF, which the invariant rules out. -/
theorem finalAfterEmptyUpdate : Obligations.FinalAfterEmptyUpdate := by
  intro s hc hphase
  have hzero : s.used = 0 := ((consistent_iff s).1 hc).1 hphase
  have hupdate := updateShortBlock s 0 (by decide) hc hphase
  have hcount : s.count + (0 : BitVec 7).setWidth 64 = s.count := BitVec.add_zero s.count
  have hused : (0 : BitVec 7).setWidth 6 = s.used := hzero.symm
  rw [hcount, hused] at hupdate
  refine ⟨_, _, _, hupdate, final_accepted ?_ (by simp), final_accepted hc (by simp [hphase]), rfl, fun hs => ?_⟩
  · obtain ⟨-, herr, hcode⟩ := (consistent_iff s).1 hc
    exact (consistent_iff _).2 ⟨by simp, herr, hcode⟩
  · have hlovf : (s.lovf || decide (2 ^ 61 ≤ s.count.toNat + (0 : BitVec 7).toNat)) = s.lovf := by
      cases hl : s.lovf with
      | true => rfl
      | false => simpa using hs.length hl
    rw [hlovf]
    rfl

end Sys2Proof.Machine
end

section
/-! The register window (20_memory.md): the map (R32), the reads while BUSY = 0 (R35) and the fields of STATUS (R26),
reads of every kind (R35), and the DATA registers (R36, R37). -/

namespace Sys2Proof.Machine

/-- No register stands at a misaligned or reserved offset (R32). -/
theorem regAt_eq_none {off : BitVec 8}
    (h : off.toNat % 4 ≠ 0 ∨ (0x10 ≤ off.toNat ∧ off.toNat ≤ 0x1C) ∨ 0x80 ≤ off.toNat) : regAt off = none := by
  refine Option.eq_none_iff_forall_ne_some.2 fun r hr => ?_
  have hrange := regOffset_range r
  rw [regOffset_of_regAt off r hr] at hrange
  omega

theorem writable_iff (r : Reg) : r.writable = true ↔ r = .cmd ∨ r = .status ∨ ∃ j, r = .data j := by
  cases r <;> simp [Reg.writable]

/-- Settles O31: each register is found at its own offset, and no other offset has one. -/
theorem registerMap : Obligations.RegisterMap :=
  ⟨regAt_regOffset .cmd, regAt_regOffset .status, regAt_regOffset .countLo, regAt_regOffset .countHi,
    fun i => regAt_regOffset (.h i), fun j => regAt_regOffset (.data j), fun _ => regAt_eq_none, writable_iff⟩

/-- Settles O33: the step of a read of an idle engine, for the register at each offset. -/
theorem idleReads : Obligations.IdleReads := by
  intro s off rest hb hnext
  have hread {r : Reg} (hr : off = regOffset r) : step s = .next (answered (.readData (idleValue r s)) rest s) := by
    subst hr
    exact step_read_of_idle hb hnext
  refine ⟨hread (r := .cmd), hread (r := .status), hread (r := .countLo), hread (r := .countHi), fun i hi hoff => ?_,
    fun j hj hoff => ?_⟩
  · have hplace : off = regOffset (.h ⟨i, hi⟩) := BitVec.eq_of_toNat_eq (by simp [regOffset, hoff]; omega)
    exact hread hplace
  · have hplace : off = regOffset (.data ⟨j, hj⟩) := BitVec.eq_of_toNat_eq (by simp [regOffset, hoff]; omega)
    exact hread hplace

/-- BUSY is bit 0 of STATUS (R26). -/
theorem statusLayout_busy (used : BitVec 6) (errCode : BitVec 4) (err lovf done part busy : BitVec 1) :
    (statusLayout used errCode err lovf done part busy).extractLsb' 0 1 = busy := by
  rw [statusLayout, BitVec.extractLsb'_append_eq_of_add_le (by decide), BitVec.extractLsb'_eq_self]

/-- Settles O34: each flag and field at its place in the layout of STATUS. -/
theorem statusFields : Obligations.StatusFields := by
  intro s hb
  simp only [statusWord, statusLayout_busy, statusLayout_flags, statusLayout_fields, statusLayout_reserved, hb,
    BitVec.getLsbD_ofBool, decide_true, Bool.true_and, beq_iff_eq, and_self, and_true]
  rfl

theorem SameEngine.trans {s t u : State} (h : SameEngine s t) (k : SameEngine t u) : SameEngine s u :=
  ⟨⟨k.hash.trans h.hash, k.buf.trans h.buf, k.count.trans h.count, k.used.trans h.used, k.lovf.trans h.lovf,
    k.phase.trans h.phase⟩, k.err.trans h.err, k.errCode.trans h.errCode, k.pending.trans h.pending,
    k.resetAsserted.trans h.resetAsserted⟩

/-- A read in reset takes a free value or answers the bus error (log 11). -/
theorem accessInReset_read (w : AccessWidth) (off : BitVec 8) (s : State) : ∃ (answer : BusResponse) (draws : Nat),
    accessInReset (.read w off) s = .next { s with responses := answer :: s.responses, draws := draws } := by
  cases ha : accessTarget (.read w off) with
  | none => exact ⟨.busError off, s.draws, by rw [accessInReset.eq_def, ha]; rfl⟩
  | some r => exact ⟨_, s.draws + 1, by rw [accessInReset.eq_def, ha]; rfl⟩

/-- A read outside reset is that of a register or answers the bus error. -/
theorem accessWindow_read_cases (w : AccessWidth) (off : BitVec 8) (s : State) : ∃ (answer : BusResponse) (draws : Nat),
    accessWindow (.read w off) s = { s with responses := answer :: s.responses, draws := draws } := by
  obtain ⟨-, h⟩ | ⟨w, off, r, -, -, h⟩ | ⟨_, _, _, _, hwrite, -, -⟩ := accessWindow_cases (.read w off) s
  · exact ⟨_, s.draws, h⟩
  · rw [h, readRegister]
    split
    · exact ⟨_, s.draws + 1, rfl⟩
    · exact ⟨_, s.draws, rfl⟩
  · cases hwrite

theorem hostAccess_read {s : State} (hc : s.consistent = true) (w : AccessWidth) (off : BitVec 8) :
    ∃ (answer : BusResponse) (draws : Nat),
      hostAccess (.read w off) s = .next { s with responses := answer :: s.responses, draws := draws } := by
  by_cases hr : s.resetAsserted = true
  · rw [hostAccess_of_reset hr]
    exact accessInReset_read w off s
  · obtain ⟨answer, draws, h⟩ := accessWindow_read_cases w off s
    exact ⟨answer, draws, by rw [hostAccess_of_released (Bool.eq_false_of_not_eq_true hr) hc, h]⟩

/-- Settles O36: in reset or not, all a read leaves is its answer and the count of the draws. -/
theorem readsHaveNoSideEffects : Obligations.ReadsHaveNoSideEffects := by
  intro s w off rest hc hin
  obtain ⟨answer, draws, hread⟩ := hostAccess_read (s := withInputs rest s) hc w off
  exact ⟨_, answer, (step_of_cons hin).trans hread, SameEngine.outside s rest _ draws, rfl, rfl⟩

/-! ### The DATA registers -/

/-- The four bytes a DATA write stores, the most significant first (R36). -/
theorem putBytes_be32bytes_getElem (j : Fin 16) (v : Word) (buf : Buffer) {a : Nat} (ha : a < 128) :
    (putBytes (4 * j.val) (be32bytes v) buf)[a] =
      if a = 4 * j.val then v.extractLsb' 24 8
      else if a = 4 * j.val + 1 then v.extractLsb' 16 8
      else if a = 4 * j.val + 2 then v.extractLsb' 8 8
      else if a = 4 * j.val + 3 then v.extractLsb' 0 8
      else buf[a] := by
  rw [putBytes_getElem]
  rcases Nat.lt_or_ge a (4 * j.val) with hlt | hge
  · rw [if_neg hlt.not_ge, if_neg (by omega), if_neg (by omega), if_neg (by omega), if_neg (by omega)]
  · obtain ⟨k, rfl⟩ := Nat.exists_eq_add_of_le hge
    rw [if_pos hge, Nat.add_sub_cancel_left]
    match k with
    | 0 | 1 | 2 | 3 | k + 4 => simp [be32bytes]

theorem writeData_of_idle (j : Fin 16) (v : Word) {s : State} (hb : s.busy = false) :
    writeData j v s = { s with buf := putBytes (4 * j.val) (be32bytes v) s.buf } := by
  rw [writeData, hb]
  rfl

/-- Settles O37: the step of the write, and the bytes it stores. -/
theorem dataWrite : Obligations.DataWrite := by
  intro s j v rest hb hnext
  refine ⟨_, fun a ha => putBytes_be32bytes_getElem j v s.buf ha, ?_⟩
  rw [step_write (r := .data j) hnext, writeRegister, writeData_of_idle (s := withInputs rest s) j v hb]
  rfl

/-- A word is its four bytes (R11). -/
theorem be32_extractLsb' (v : Word) :
    be32 (v.extractLsb' 24 8) (v.extractLsb' 16 8) (v.extractLsb' 8 8) (v.extractLsb' 0 8) = v := by
  rw [be32, BitVec.extractLsb'_append_extractLsb'_eq_extractLsb' (start₁ := 16) (start₂ := 24) rfl,
    BitVec.extractLsb'_append_extractLsb'_eq_extractLsb' (start₁ := 8) (start₂ := 16) rfl,
    BitVec.extractLsb'_append_extractLsb'_eq_extractLsb' (start₁ := 0) (start₂ := 8) rfl,
    BitVec.extractLsb'_eq_self]

theorem dataWord_putBytes (j : Fin 16) (v : Word) (buf : Buffer) :
    dataWord j (putBytes (4 * j.val) (be32bytes v) buf) = v := by
  simp only [dataWord, putBytes_be32bytes_getElem, Nat.add_eq_left, Nat.add_left_cancel_iff, if_true]
  exact be32_extractLsb' v

/-- A schedule word of BUF[0..63] is what its DATA register shows (R37). -/
theorem schedule_lowBlock (j : Fin 16) (buf : Buffer) : (schedule (lowBlock buf))[j.val] = dataWord j buf := by
  rw [schedule_getElem_of_lt (lowBlock buf) j.isLt]
  simp only [lowBlock_getElem, dataWord]

/-- Settles O38: both are the word the DATA register shows. -/
theorem dataWordIsScheduleWord : Obligations.DataWordIsScheduleWord := by
  intro s j v hb
  have hshown : dataWord j (writeData j v s).buf = v := by
    rw [writeData_of_idle j v hb, dataWord_putBytes]
  exact ⟨(schedule_lowBlock j _).trans hshown, hshown⟩

end Sys2Proof.Machine
end

section
/-! What each register is written by, over every step (10_state.md sections 2 and 3): `step_effect` says what a step can
do, and each statement is read off its cases. -/

namespace Sys2Proof.Machine

/-- What a command's performance leaves of H: IV, one compression of BUF[0..63], or those of the padded blocks (R77). -/
theorem effectOf_hash_cases {i : Instr} {s : State} (h : (effectOf i s).hash ≠ s.hash) :
    (i = .init ∧ (effectOf i s).hash = initialHash) ∨
    (i = .update 64 ∧ (effectOf i s).hash = compress s.hash (lowBlock s.buf)) ∨
    (i = .final ∧ s.used.toNat ≤ 55 ∧ (effectOf i s).hash = compress s.hash (lowBlock (effectOf i s).buf)) ∨
    (i = .final ∧ 56 ≤ s.used.toNat ∧ (effectOf i s).hash =
      compress (compress s.hash (lowBlock (effectOf i s).buf)) (highBlock (effectOf i s).buf)) := by
  cases i with
  | init => exact .inl ⟨rfl, rfl⟩
  | update n =>
    have hhash := updateEffect_hash n s
    by_cases hfull : byteCount n = 64
    · obtain rfl : n = 64 := BitVec.eq_of_toNat_eq hfull
      exact .inr (.inl ⟨rfl, by rw [effectOf, hhash, if_pos hfull]⟩)
    · exact absurd (hhash.trans (if_neg hfull)) h
  | final =>
    rcases Nat.lt_or_ge 55 s.used.toNat with htwo | hone
    · exact .inr (.inr (.inr ⟨rfl, htwo, (finalEffect_of_gt htwo).2⟩))
    · exact .inr (.inr (.inl ⟨rfl, hone, (finalEffect_of_le hone).2⟩))

/-- A step writes H, COUNT, USED, LOVF and PHASE by reset or by the engine's step alone. -/
theorem step_session_cases {s t : State} (h : step s = .next t) :
    (s.inputs.head? = some .resetAssert ∧ t = applyReset (withInputs s.inputs.tail s)) ∨
    (∃ i, s.engineNext ∧ s.pending = some i ∧ i.wf = true ∧ allowed i s.phase = true ∧
      t = { effectOf i (withInputs s.inputs.tail s) with pending := none }) ∨
    (t.hash = s.hash ∧ t.count = s.count ∧ t.used = s.used ∧ t.lovf = s.lovf ∧ t.phase = s.phase) := by
  obtain hreset | ⟨i, hturn, hp, hexec⟩ | ⟨v, -, -, rfl⟩ | ⟨v, -, -, rfl⟩ | ⟨j, v, -, -, rfl⟩ | hquiet :=
    step_effect h
  · exact .inl hreset
  · obtain ⟨-, hwf, hallowed, ht⟩ := (exec_eq_next i _ t).1 hexec
    exact .inr (.inl ⟨i, hturn, hp, hwf, hallowed, ht⟩)
  · exact .inr (.inr (by simp))
  · exact .inr (.inr (by simp))
  · exact .inr (.inr (by simp))
  · exact .inr (.inr ⟨hquiet.hash, hquiet.count, hquiet.used, hquiet.lovf, hquiet.phase⟩)

/-- Settles O49: reset gives IV, and the engine's step writes H as its command does. -/
theorem hashWriters : Obligations.HashWriters := by
  intro s t h hne
  obtain ⟨hin, rfl⟩ | ⟨i, hturn, hp, -, -, rfl⟩ | ⟨hhash, -⟩ := step_session_cases h
  · exact .inl ⟨hin, rfl⟩
  · refine .inr ⟨hturn, ?_⟩
    obtain ⟨rfl, hhash⟩ | ⟨rfl, hhash⟩ | ⟨rfl, hused, hhash⟩ | ⟨rfl, hused, hhash⟩ := effectOf_hash_cases hne
    · exact .inl ⟨hp, hhash⟩
    · exact .inr (.inl ⟨hp, hhash⟩)
    · exact .inr (.inr (.inl ⟨hp, hused, hhash⟩))
    · exact .inr (.inr (.inr ⟨hp, hused, hhash⟩))
  · exact absurd hhash hne

/-- FINAL writes the buffer from USED on, and above BUF[63] only with USED ≥ 56 (R81). -/
theorem finalEffect_buf_cases {s : State} {a : Nat} (ha : a < 128) (h : (finalEffect s).buf[a] ≠ s.buf[a]) :
    s.used.toNat ≤ a ∧ (64 ≤ a → 56 ≤ s.used.toNat) := by
  have hrange : s.used.toNat ≤ 63 := Nat.le_of_lt_succ s.used.isLt
  rcases Nat.lt_or_ge 55 s.used.toNat with htwo | hone
  · refine ⟨Nat.le_of_not_gt fun hlt => h ?_, fun _ => htwo⟩
    simp only [(finalEffect_of_gt htwo).1, padTwoBlocks_getElem hrange _ _ ha, if_pos hlt]
  · refine ⟨Nat.le_of_not_gt fun hlt => h ?_, fun hge => absurd (pad_getElem_of_ge hone _ _ ha hge) h⟩
    simp only [(finalEffect_of_le hone).1, padOneBlock_getElem hone _ _ ha, if_pos hlt]

theorem effectOf_buf_cases {i : Instr} {s : State} {a : Nat} (ha : a < 128) (h : (effectOf i s).buf[a] ≠ s.buf[a]) :
    i = .init ∨ (i = .final ∧ s.used.toNat ≤ a ∧ (64 ≤ a → 56 ≤ s.used.toNat)) := by
  cases i with
  | init => exact .inl rfl
  | update n => exact absurd (by simp only [effectOf, updateEffect_buf]) h
  | final => exact .inr ⟨rfl, finalEffect_buf_cases ha h⟩

/-- An accepted DATA write changes bytes of its own word alone (R36). -/
theorem writeData_buf_cases {j : Fin 16} {v : Word} {s : State} {a : Nat} (ha : a < 128)
    (h : (writeData j v s).buf[a] ≠ s.buf[a]) : s.busy = false ∧ a / 4 = j.val := by
  by_cases hb : s.busy = true
  · exact absurd (by simp only [writeData_buf, hb, if_true]) h
  · have hidle : s.busy = false := Bool.eq_false_of_not_eq_true hb
    refine ⟨hidle, ?_⟩
    by_contra hword
    simp only [writeData_of_idle j v hidle, putBytes_be32bytes_getElem] at h
    rw [if_neg (by omega), if_neg (by omega), if_neg (by omega), if_neg (by omega)] at h
    exact h rfl

/-- Settles O50: INIT, FINAL and the DATA write are the operations that touch BUF, each in its own places. -/
theorem bufferWriters : Obligations.BufferWriters := by
  intro s t a ha h hne
  obtain ⟨hin, rfl⟩ | ⟨i, hturn, hp, hexec⟩ | ⟨v, -, -, rfl⟩ | ⟨v, -, -, rfl⟩ | ⟨j, v, hin, -, rfl⟩ | hquiet :=
    step_effect h
  · exact .inl hin
  · obtain ⟨-, -, -, rfl⟩ := (exec_eq_next i _ t).1 hexec
    obtain rfl | ⟨rfl, hused, habove⟩ := effectOf_buf_cases ha hne
    · exact .inr (.inl ⟨hturn, hp⟩)
    · exact .inr (.inr (.inl ⟨hturn, hp, hused, habove⟩))
  · exact absurd (by simp) hne
  · exact absurd (by simp) hne
  · obtain ⟨hb, hword⟩ := writeData_buf_cases ha hne
    exact .inr (.inr (.inr ⟨j, v, hin, hb, hword⟩))
  · exact absurd (by rw [hquiet.buf]) hne

/-- COUNT and LOVF are written by INIT and UPDATE, and UPDATE does not clear LOVF (R79, R91). -/
theorem effectOf_length_cases (i : Instr) (s : State) : i = .init ∨
    (∃ n, i = .update n ∧ (effectOf i s).count = s.count + n.setWidth 64 ∧
      (s.lovf = true → (effectOf i s).lovf = true)) ∨
    (i = .final ∧ (effectOf i s).count = s.count ∧ (effectOf i s).lovf = s.lovf) := by
  cases i with
  | init => exact .inl rfl
  | update n =>
    refine .inr (.inl ⟨n, rfl, ?_, fun hlovf => ?_⟩)
    · rw [effectOf, updateEffect_count, countAfter_eq_add]
    · rw [effectOf, updateEffect_lovf, lovfAfter, hlovf, Bool.true_or]
  | final => exact .inr (.inr ⟨rfl, rfl, rfl⟩)

/-- Settles O51: by the command the engine performs; nothing else but reset touches COUNT or LOVF. -/
theorem lengthWriters : Obligations.LengthWriters := by
  intro s t h
  obtain ⟨hin, -⟩ | ⟨i, hturn, hp, -, -, rfl⟩ | ⟨-, hcount, -, hlovf, -⟩ := step_session_cases h
  · exact ⟨fun _ => .inl hin, fun _ _ => .inl hin⟩
  · obtain rfl | ⟨n, rfl, hcount, hlovf⟩ | ⟨rfl, hcount, hlovf⟩ := effectOf_length_cases i (withInputs s.inputs.tail s)
    · exact ⟨fun _ => .inr (.inl ⟨hturn, hp⟩), fun _ _ => .inr ⟨hturn, hp⟩⟩
    · exact ⟨fun _ => .inr (.inr ⟨hturn, n, hp, hcount⟩),
        fun hset hclear => absurd (hclear.symm.trans (hlovf hset)) Bool.false_ne_true⟩
    · exact ⟨fun hne => absurd hne (by simp [hcount, hlovf]), fun hset hclear => by simp [hlovf, hset] at hclear⟩
  · exact ⟨fun hne => absurd hne (by simp [hcount, hlovf]), fun hset hclear => by simp [hlovf, hset] at hclear⟩

/-- The move each command makes between the phases (R20). -/
theorem effectOf_phase_cases (i : Instr) (s : State) :
    (i = .init ∧ (effectOf i s).phase = .absorb) ∨
    (i = .update 64 ∧ (effectOf i s).phase = s.phase) ∨
    (∃ n, i = .update n ∧ byteCount n ≠ 64 ∧ (effectOf i s).phase = .partialBlock ∧
      (effectOf i s).used = n.setWidth 6) ∨
    (i = .final ∧ (effectOf i s).phase = .done) := by
  cases i with
  | init => exact .inl ⟨rfl, rfl⟩
  | update n =>
    by_cases hfull : byteCount n = 64
    · obtain rfl : n = 64 := BitVec.eq_of_toNat_eq hfull
      exact .inr (.inl ⟨rfl, by rw [effectOf, updateEffect_phase, if_pos hfull]⟩)
    · exact .inr (.inr (.inl ⟨n, rfl, hfull, by rw [effectOf, updateEffect_phase, if_neg hfull],
        by rw [effectOf, updateEffect_used, if_neg hfull]⟩))
  | final => exact .inr (.inr (.inr ⟨rfl, rfl⟩))

/-- Settles O52: the command's move, from a phase that allows it (R89). -/
theorem phaseMoves : Obligations.PhaseMoves := by
  intro s t h hne
  obtain ⟨hin, rfl⟩ | ⟨i, hturn, hp, hwf, hallowed, rfl⟩ | ⟨-, -, -, -, hphase⟩ := step_session_cases h
  · exact .inl ⟨rfl, .inl hin⟩
  · obtain ⟨rfl, hphase⟩ | ⟨rfl, hphase⟩ | ⟨n, rfl, hshort, hphase, hused⟩ | ⟨rfl, hphase⟩ :=
      effectOf_phase_cases i (withInputs s.inputs.tail s)
    · exact .inl ⟨hphase, .inr ⟨hturn, hp⟩⟩
    · exact absurd hphase hne
    · have hn : n.toNat < 64 := lt_of_le_of_ne (of_decide_eq_true hwf) hshort
      refine .inr (.inl ⟨(allowed_update_iff n s.phase).1 hallowed, hphase, hturn, n, hn, hp, ?_⟩)
      show (effectOf (.update n) (withInputs s.inputs.tail s)).used.toNat = n.toNat
      rw [hused, BitVec.toNat_setWidth, Nat.mod_eq_of_lt hn]
    · refine .inr (.inr ⟨fun hdone => ?_, hphase, hturn, hp⟩)
      rw [hdone] at hallowed
      cases hallowed
  · exact absurd hphase hne

/-- Settles O54: in DONE the phase table allows INIT alone. -/
theorem digestIsKept : Obligations.DigestIsKept := by
  intro s t hdone h hassert hinit
  obtain ⟨hin, -⟩ | ⟨i, hturn, hp, -, hallowed, -⟩ | ⟨hhash, -, -, -, hphase⟩ := step_session_cases h
  · exact absurd hin hassert
  · rw [hdone] at hallowed
    cases i with
    | init => exact absurd ⟨hturn, hp⟩ hinit
    | update n | final => cases hallowed
  · exact ⟨hhash, hphase.trans hdone⟩

/-! ### The error record and the pending command -/

/-- A CMD write raises an error or makes a command pending (R88). -/
theorem issueCommand_outcome (v : Word) (s : State) : (∃ c, issueCommand v s = raiseCmdError c s) ∨
    (s.busy = false ∧ ∃ i, decode v = .command i ∧ allowed i s.phase = true ∧
      issueCommand v s = { s with pending := some i }) := by
  obtain ⟨-, h⟩ | ⟨-, c, -, h⟩ | ⟨-, i, -, -, h⟩ | haccepted := issueCommand_cases v s
  · exact .inl ⟨_, h⟩
  · exact .inl ⟨c, h⟩
  · exact .inl ⟨_, h⟩
  · exact .inr haccepted

/-- What a step does to the error record: reset or a STATUS write clears it, a CMD or DATA write raises an error and
does nothing else, and every other step leaves it (R21, R108). -/
theorem step_error_cases {s t : State} (h : step s = .next t) :
    (s.inputs.head? = some .resetAssert ∧ t.err = false) ∨
    (∃ v, v.getLsbD 4 = true ∧ s.inputs.head? = some (hostWrite .status v) ∧ t.err = false) ∨
    ((∃ v, s.inputs.head? = some (hostWrite .cmd v) ∨ ∃ j, s.inputs.head? = some (hostWrite (.data j) v)) ∧
      ∃ c, t = respond .writeAck (raiseCmdError c (withInputs s.inputs.tail s))) ∨
    (t.err = s.err ∧ t.errCode = s.errCode) := by
  obtain ⟨hin, rfl⟩ | ⟨i, -, -, hexec⟩ | ⟨v, hin, -, rfl⟩ | ⟨v, hin, -, rfl⟩ | ⟨j, v, hin, -, rfl⟩ | hquiet :=
    step_effect h
  · exact .inl ⟨hin, rfl⟩
  · obtain ⟨-, -, -, rfl⟩ := (exec_eq_next i _ t).1 hexec
    exact .inr (.inr (.inr ⟨effectOf_err i _, effectOf_errCode i _⟩))
  · obtain ⟨c, hraise⟩ | ⟨-, i, -, -, haccept⟩ := issueCommand_outcome v (withInputs s.inputs.tail s)
    · exact .inr (.inr (.inl ⟨⟨v, .inl hin⟩, c, by rw [hraise]⟩))
    · exact .inr (.inr (.inr (by simp [haccept])))
  · by_cases hbit : v.getLsbD 4 = true
    · exact .inr (.inl ⟨v, hbit, hin, by rw [writeStatus, if_pos hbit]; rfl⟩)
    · exact .inr (.inr (.inr (by rw [writeStatus, if_neg hbit]; exact ⟨rfl, rfl⟩)))
  · by_cases hb : s.busy = true
    · exact .inr (.inr (.inl ⟨⟨v, .inr ⟨j, hin⟩⟩, .busyWrite, by rw [writeData_of_busy]; exact hb⟩))
    · exact .inr (.inr (.inr (by simp [hb])))
  · exact .inr (.inr (.inr ⟨hquiet.err, hquiet.errCode⟩))

/-- Settles O44: each clause in each of the cases of `step_error_cases`. -/
theorem errorRecordWriters : Obligations.ErrorRecordWriters := by
  intro s t h
  obtain ⟨hin, hclear⟩ | ⟨v, hbit, hin, hclear⟩ | ⟨hwrite, c, rfl⟩ | ⟨herr, hcode⟩ := step_error_cases h
  · simp [hin, hclear]
  · have hcleared : t.err ≠ true := by simp [hclear]
    exact ⟨fun _ _ => .inr ⟨v, hbit, hin⟩, fun _ hset => absurd hset hcleared, fun _ hset => absurd hset hcleared⟩
  · refine ⟨fun _ hclear => by simp at hclear, fun hset _ => by simp [hset], fun _ _ => ⟨?_, rfl, hwrite⟩⟩
    exact ⟨rfl, rfl, rfl, rfl, rfl, rfl⟩
  · refine ⟨fun hset hclear => ?_, fun _ _ => hcode, fun hclear hset => ?_⟩
    · simp [herr, hset] at hclear
    · simp [herr, hclear] at hset

/-- What a step does to PENDING: a CMD write makes a command pending while none is, the engine's step and reset take it
away, and every other step leaves it (R22, R90, R117). -/
theorem step_pending_cases {s t : State} (h : step s = .next t) :
    (s.inputs.head? = some .resetAssert ∧ t.pending = none) ∨
    (∃ i, s.engineNext ∧ s.pending = some i ∧ exec i (withInputs s.inputs.tail s) = .next t ∧ t.pending = none) ∨
    (∃ v i, s.inputs.head? = some (hostWrite .cmd v) ∧ decode v = .command i ∧ allowed i s.phase = true ∧
      s.pending = none ∧ t = respond .writeAck { withInputs s.inputs.tail s with pending := some i }) ∨
    t.pending = s.pending := by
  obtain ⟨hin, rfl⟩ | ⟨i, hturn, hp, hexec⟩ | ⟨v, hin, -, rfl⟩ | ⟨v, -, -, rfl⟩ | ⟨j, v, -, -, rfl⟩ | hquiet :=
    step_effect h
  · exact .inl ⟨hin, rfl⟩
  · obtain ⟨-, -, -, ht⟩ := (exec_eq_next i _ t).1 hexec
    exact .inr (.inl ⟨i, hturn, hp, hexec, by rw [ht]⟩)
  · obtain ⟨c, hraise⟩ | ⟨hb, i, hd, ha, haccept⟩ := issueCommand_outcome v (withInputs s.inputs.tail s)
    · exact .inr (.inr (.inr (by simp [hraise])))
    · exact .inr (.inr (.inl ⟨v, i, hin, hd, ha, (busy_eq_false s).1 hb, by rw [haccept]⟩))
  · exact .inr (.inr (.inr (by simp)))
  · exact .inr (.inr (.inr (by simp)))
  · exact .inr (.inr (.inr hquiet.pending))

/-- Settles O53: each clause in each of the cases of `step_pending_cases`. -/
theorem oneCommandPending : Obligations.OneCommandPending := by
  intro s t h
  refine ⟨fun i hnone hsome => ?_, fun i hi => ?_⟩
  all_goals
    obtain ⟨hin, hdrop⟩ | ⟨j, hturn, hj, hexec, hdrop⟩ | ⟨v, j, hin, hd, ha, hfree, rfl⟩ | hkept := step_pending_cases h
  · simp [hdrop] at hsome
  · simp [hdrop] at hsome
  · obtain rfl : j = i := Option.some.inj hsome
    exact ⟨⟨rfl, rfl, rfl, rfl, rfl, rfl⟩, ha, v, hin, hd⟩
  · simp [hkept, hnone] at hsome
  · exact .inr ⟨hdrop, .inl hin⟩
  · obtain rfl : j = i := Option.some.inj (hj.symm.trans hi)
    exact .inr ⟨hdrop, .inr ⟨hturn, hexec⟩⟩
  · simp [hfree] at hi
  · exact .inl (hkept.trans hi)

end Sys2Proof.Machine
end

section
/-! FINAL and the padded message (44_padding.md section 2, 45_commands.md section 3): the blocks FINAL compresses are
the last blocks of the padded message, so it carries the chaining value of the full blocks to the SHA-256. -/

namespace Sys2Proof.Machine

/-! ### The chaining value (R77, R78) -/

@[simp] theorem chain_zero (p : List Byte) : chain p 0 = initialHash := rfl

theorem chain_succ (p : List Byte) (k : Nat) : chain p (k + 1) = compress (chain p k) (blockAt p k) := by
  simp only [chain, List.range_succ, List.foldl_concat]

@[simp] theorem blockAt_getElem (p : List Byte) (b : Nat) {i : Nat} (hi : i < 64) :
    (blockAt p b)[i] = p.getD (64 * b + i) 0 := by
  simp [blockAt]

/-- What follows a full block does not change it. -/
theorem blockAt_append (p q : List Byte) {b : Nat} (h : 64 * (b + 1) ≤ p.length) : blockAt (p ++ q) b = blockAt p b :=
  Vector.ext fun i hi => by
    rw [blockAt_getElem _ _ hi, blockAt_getElem _ _ hi, List.getD_append _ _ _ _ (by omega)]

theorem chain_append (p q : List Byte) {k : Nat} (h : 64 * k ≤ p.length) : chain (p ++ q) k = chain p k := by
  induction k with
  | zero => rw [chain_zero, chain_zero]
  | succ k ih => rw [chain_succ, chain_succ, ih (by omega), blockAt_append p q h]

/-! ### The padded message (R81, R82) -/

/-- What the padding adds to a message of `n` bytes. -/
def paddingOf (n : Nat) : List Byte :=
  [0x80] ++ List.replicate (zeroFill n) 0x00 ++ be64bytes (BitVec.ofNat 64 (8 * n))

theorem paddedMessage_eq (m : List Byte) : paddedMessage m = m ++ paddingOf m.length := by
  simp only [paddedMessage, paddingOf, List.append_assoc]

theorem paddingOf_length (n : Nat) : (paddingOf n).length = zeroFill n + 9 := by
  simp [paddingOf]

/-- Byte `k` of the padding: 0x80, the zero bytes, the length field. -/
theorem paddingOf_getD (n k : Nat) (hk : k < zeroFill n + 9) : (paddingOf n).getD k 0 =
    if k = 0 then 0x80
    else if k < zeroFill n + 1 then 0x00
    else (BitVec.ofNat 64 (8 * n)).extractLsb' (8 * (zeroFill n + 8 - k)) 8 := by
  cases k with
  | zero => rfl
  | succ k =>
    rw [if_neg k.succ_ne_zero, paddingOf, List.append_assoc, List.singleton_append, List.getD_cons_succ]
    rcases Nat.lt_or_ge k (zeroFill n) with hzero | hfield
    · rw [if_pos (by omega), List.getD_append _ _ _ _ (by simpa using hzero), List.getD_replicate _ hzero]
    · rw [if_neg (by omega), List.getD_append_right _ _ _ _ (by simpa using hfield), List.length_replicate,
        List.getD_eq_getElem?_getD, be64bytes_getElem? _ (by omega), Option.getD_some,
        show 7 - (k - zeroFill n) = zeroFill n + 8 - (k + 1) by omega]

section
variable {m : List Byte} {s : State}

/-- Block by block FINAL's padded buffer is the end of the padded message, when USED, COUNT and the bytes below USED are
those of the message. -/
theorem pad_eq_paddedMessage (hcount : s.count = BitVec.ofNat 64 m.length) (hused : s.used.toNat = m.length % 64)
    (hbuf : ∀ (a : Nat) (h : a < 128), a < s.used.toNat → s.buf[a] = m.getD (64 * (m.length / 64) + a) 0) :
    ∃ (blocks : Nat) (out : Buffer), pad s.used.toNat (bitLength s.count) s.buf = (out, blocks) ∧
      (blocks = 1 ∨ blocks = 2) ∧ (paddedMessage m).length = 64 * (m.length / 64 + blocks) ∧
      ∀ (a : Nat) (h : a < 128), a < 64 * blocks → out[a] = (paddedMessage m).getD (64 * (m.length / 64) + a) 0 := by
  have hrange : s.used.toNat ≤ 63 := Nat.le_of_lt_succ s.used.isLt
  have hbits : bitLength s.count = BitVec.ofNat 64 (8 * m.length) := by
    refine BitVec.eq_of_toNat_eq ?_
    rw [bitLength_toNat, hcount, BitVec.toNat_ofNat, BitVec.toNat_ofNat]
    omega
  obtain ⟨z, blocks, out, hpad, hz, hone, htwo, hlength, hout⟩ :=
    paddingFillsWholeBlocks s.used.toNat (bitLength s.count) s.buf hrange
  have hfill : zeroFill m.length = z := by
    rw [hz, hused, zeroFill]
  refine ⟨blocks, out, hpad, by omega, ?_, fun a ha hin => ?_⟩
  · rw [paddedMessage_eq, List.length_append, paddingOf_length, hfill]
    omega
  · rw [hout a ha, paddedMessage_eq]
    by_cases hlt : a < s.used.toNat
    · rw [if_pos hlt, hbuf a ha hlt, List.getD_append _ _ _ _ (by omega)]
    · have hindex : 64 * (m.length / 64) + a - m.length = a - s.used.toNat := by omega
      rw [if_neg hlt, List.getD_append_right _ _ _ _ (by omega), hindex, paddingOf_getD _ _ (by omega), hfill, hbits,
        if_pos hin, show 64 * blocks - 1 - a = z + 8 - (a - s.used.toNat) by omega]
      have hfirst : a = s.used.toNat ↔ a - s.used.toNat = 0 := by omega
      have hzero : a < s.used.toNat + 1 + z ↔ a - s.used.toNat < z + 1 := by omega
      simp only [hfirst, hzero]

/-- The compressions of FINAL are the last ones of the padded message. -/
theorem finalEffect_hash_eq_sha256 (hhash : s.hash = chain m (m.length / 64))
    (hcount : s.count = BitVec.ofNat 64 m.length) (hused : s.used.toNat = m.length % 64)
    (hbuf : ∀ (a : Nat) (h : a < 128), a < s.used.toNat → s.buf[a] = m.getD (64 * (m.length / 64) + a) 0) :
    (finalEffect s).hash = sha256 m := by
  obtain ⟨blocks, out, hpad, hblocks, hlength, hout⟩ := pad_eq_paddedMessage hcount hused hbuf
  have hstart : s.hash = chain (paddedMessage m) (m.length / 64) := by
    rw [hhash, paddedMessage_eq, chain_append _ _ (Nat.mul_div_le _ _)]
  have hlow : lowBlock out = blockAt (paddedMessage m) (m.length / 64) :=
    Vector.ext fun i hi => by rw [lowBlock_getElem, blockAt_getElem _ _ hi, hout i (by omega) (by omega)]
  rw [finalEffect_hash, hpad, sha256, hlength, Nat.mul_div_cancel_left _ (by decide), finalHash, hstart, hlow]
  obtain rfl | rfl := hblocks
  · exact (chain_succ _ _).symm
  · have hhigh : highBlock out = blockAt (paddedMessage m) (m.length / 64 + 1) :=
      Vector.ext fun i hi => by
        rw [highBlock_getElem, blockAt_getElem _ _ hi, hout (64 + i) (by omega) (by omega), Nat.mul_add, Nat.add_assoc]
    rw [if_pos rfl, hhigh, chain_succ, chain_succ]

end

/-- Settles O59: FINAL is accepted, and its compressions are the last ones of the padded message. -/
theorem finalGivesTheDigest : Obligations.FinalGivesTheDigest := by
  intro m s _ hc hphase hhash hcount hused hbuf
  exact ⟨_, final_accepted hc hphase, rfl, finalEffect_hash_eq_sha256 hhash hcount hused hbuf⟩

end Sys2Proof.Machine
end

section
/-! Runs over a list of events, and what the host's pseudo-instructions leave (30_encoding.md section 3): a poll, a
command with its WAIT, a LOAD, a run of reads. -/

namespace Sys2Proof.Machine

/-- The events `es`, whatever comes after them, take `s` to `t`, the fields `inputs` of the two aside. -/
def Consumes (es : List Event) (s t : State) : Prop :=
  ∀ rest, Sys2Proof.core.run es.length (withInputs (es ++ rest) s) = .next (withInputs rest t)

@[simp] theorem withInputs_withInputs (rest rest' : List Event) (s : State) :
    withInputs rest (withInputs rest' s) = withInputs rest s := rfl

theorem run_add_of_next {j : Nat} {s t : State} (h : Sys2Proof.core.run j s = .next t) (k : Nat) :
    Sys2Proof.core.run (j + k) s = Sys2Proof.core.run k t := by
  induction j generalizing s with
  | zero =>
    obtain rfl := Host.Outcome.next.inj h
    rw [Nat.zero_add]
  | succ j ih =>
    have hrun := h
    rw [Nat.add_right_comm]
    simp only [Host.Core.run] at hrun ⊢
    split at hrun
    next => exact ih hrun
    next => cases hrun
    next => cases hrun

theorem consumes_nil (s : State) : Consumes [] s s := fun _ => rfl

theorem Consumes.append {es fs : List Event} {s t u : State} (h : Consumes es s t) (k : Consumes fs t u) :
    Consumes (es ++ fs) s u := fun rest => by
  rw [List.length_append, List.append_assoc, run_add_of_next (h (fs ++ rest)), k rest]

theorem consumes_of_step {e : Event} {s t : State}
    (h : ∀ rest, step (withInputs (e :: rest) s) = .next (withInputs rest t)) : Consumes [e] s t := fun rest =>
  run_succ_of_next (h rest) 0

/-- An engine between two commands: outside reset, nothing pending, the invariant met. -/
structure Idle (s : State) : Prop where
  inv : s.Inv
  released : s.resetAsserted = false
  pending : s.pending = none

theorem Idle.busy {s : State} (hs : Idle s) : s.busy = false := (busy_eq_false s).2 hs.pending

theorem SameEngine.idle {s t : State} (h : SameEngine s t) (hs : Idle s) : Idle t :=
  ⟨h.inv hs.inv, h.resetAsserted.trans hs.released, h.pending.trans hs.pending⟩

theorem accessNext_withInputs {a : Access} {s : State} (hs : s.Inv) (hr : s.resetAsserted = false) (rest : List Event) :
    AccessNext a rest (withInputs (.access a :: rest) s) := ⟨rfl, hr, hs.consistent⟩

/-! ### Reads and polls -/

theorem readRegister_withInputs (r : Reg) (rest : List Event) (s : State) :
    readRegister r (withInputs rest s) = withInputs rest (readRegister r s) := by
  simp only [readRegister, withInputs_busy, idleValue_withInputs, busyValue_withInputs]
  split <;> rfl

theorem consumes_hostRead {s : State} (hs : s.Inv) (hr : s.resetAsserted = false) (r : Reg) :
    Consumes [hostRead r] s (readRegister r s) :=
  consumes_of_step fun rest => by
    rw [← readRegister_withInputs]
    exact step_read (accessNext_withInputs hs hr rest)

/-- Polls of STATUS leave the engine as it is (R35). -/
theorem consumes_polls {s : State} (hs : s.Inv) (hr : s.resetAsserted = false) (n : Nat) :
    ∃ t, Consumes (List.replicate n (hostRead .status)) s t ∧ SameEngine s t := by
  induction n with
  | zero => exact ⟨s, consumes_nil s, SameEngine.refl s⟩
  | succ n ih =>
    obtain ⟨t, hrun, hsame⟩ := ih
    have hread := consumes_hostRead (hsame.inv hs) (hsame.resetAsserted.trans hr) .status
    exact ⟨_, List.replicate_succ' ▸ hrun.append hread, hsame.trans (sameEngine_readRegister .status t)⟩

theorem readRegister_of_idle {s : State} (hs : Idle s) (r : Reg) :
    readRegister r s = respond (.readData (idleValue r s)) s := by
  rw [readRegister, hs.busy]
  rfl

/-- What a register reads as does not depend on what the bus has answered. -/
theorem idleValue_respond (r : Reg) (answer : BusResponse) (s : State) :
    idleValue r (respond answer s) = idleValue r s := by
  cases r <;> rfl

/-- What the bus answers to the reads `rs` of an idle engine, newest first. -/
def readAnswers (rs : List Reg) (s : State) : List BusResponse :=
  (rs.map fun r => BusResponse.readData (idleValue r s)).reverse

/-- All that reads of an idle engine leave is their answers. -/
theorem consumes_reads (rs : List Reg) {s : State} (hs : Idle s) :
    Consumes (rs.map hostRead) s { s with responses := readAnswers rs s ++ s.responses } := by
  induction rs generalizing s with
  | nil => exact consumes_nil s
  | cons r rs ih =>
    have hfirst := consumes_hostRead hs.inv hs.released r
    have hidle : Idle (readRegister r s) := (sameEngine_readRegister r s).idle hs
    have hanswers : readAnswers rs (readRegister r s) ++ (readRegister r s).responses =
        readAnswers (r :: rs) s ++ s.responses := by
      simp only [readRegister_of_idle hs, readAnswers, idleValue_respond, respond_responses, List.map_cons,
        List.reverse_cons, List.append_assoc, List.singleton_append]
    have hrun := hfirst.append (ih hidle)
    rw [hanswers, readRegister_of_idle hs] at hrun
    exact hrun

/-! ### A command and its WAIT -/

theorem effectOf_withInputs (i : Instr) (rest : List Event) (s : State) :
    effectOf i (withInputs rest s) = withInputs rest (effectOf i s) := by
  cases i with
  | init | final => rfl
  | update n =>
    simp only [effectOf, updateEffect]
    split <;> rfl

theorem effectOf_pending_none (i : Instr) (s : State) :
    { effectOf i s with pending := none } = effectOf i { s with pending := none } := by
  cases i with
  | init | final => rfl
  | update n =>
    simp only [effectOf, updateEffect]
    split <;> rfl

/-- A command's effect on the engine does not depend on the model's record of the outside. -/
theorem sameEngine_effectOf {s t : State} (h : SameEngine s t) (i : Instr) :
    SameEngine (effectOf i s) (effectOf i t) := by
  have hsession : SameSession (effectOf i s) (effectOf i t) := by
    cases i <;> constructor <;> simp [effectOf, h.hash, h.buf, h.count, h.used, h.lovf, h.phase]
  exact ⟨hsession, by simp [h.err], by simp [h.errCode], by simp [h.pending], by simp [h.resetAsserted]⟩

section
variable {s : State} {i : Instr}

theorem consumes_hostCommand (hs : Idle s) (hwf : i.wf = true) (ha : allowed i s.phase = true) :
    Consumes [hostCommand i] s (respond .writeAck { s with pending := some i }) :=
  consumes_of_step fun rest => by
    have hnext : AccessNext (.write .bits32 0x00 (encode i)) rest (withInputs (hostCommand i :: rest) s) :=
      accessNext_withInputs hs.inv hs.released rest
    have hissue := issueCommand_of_command (s := withInputs rest s) hs.busy (decodeOfEncode i hwf)
    rw [step_write_cmd hnext, withInputs_withInputs, hissue, withInputs_phase, if_pos ha]
    rfl

theorem consumes_engineTurn (hs : s.Inv) (hr : s.resetAsserted = false) (hp : s.pending = some i) :
    Consumes [.engineTurn] s { effectOf i s with pending := none } :=
  consumes_of_step fun rest => by
    have hturn : engineTurn (withInputs rest s) = .next { effectOf i (withInputs rest s) with pending := none } :=
      (engineTurn_of_pending (s := withInputs rest s) hp hr).trans ((hs.withInputs rest).exec_pending hp)
    rw [effectOf_withInputs] at hturn
    exact (step_of_engineTurn rfl).trans hturn

theorem Idle.issued_inv (hs : Idle s) (hwf : i.wf = true) (ha : allowed i s.phase = true) :
    State.Inv { s with pending := some i } := by
  have hissue := issueCommand_inv (encode i) hs.inv hs.released
  rwa [issueCommand_of_command hs.busy (decodeOfEncode i hwf), if_pos ha] at hissue

/-- A command an idle engine accepts, with its WAIT: the engine is idle again, the command performed (R55, R90). -/
theorem consumes_perform (hs : Idle s) (hwf : i.wf = true) (ha : allowed i s.phase = true) (polls : Nat) :
    ∃ t, Consumes ([hostCommand i] ++ hostWait polls) s t ∧ Idle t ∧ SameEngine (effectOf i s) t := by
  have hissued := (hs.issued_inv hwf ha).respond .writeAck
  obtain ⟨u, hpolls, hu⟩ := consumes_polls hissued hs.released polls
  have huInv : u.Inv := hu.inv hissued
  have huReleased : u.resetAsserted = false := hu.resetAsserted.trans hs.released
  have hturn := consumes_engineTurn huInv huReleased hu.pending
  have hperformed : Idle { effectOf i u with pending := none } :=
    ⟨exec_inv huInv huReleased (huInv.exec_pending hu.pending), (effectOf_resetAsserted i u).trans huReleased, rfl⟩
  have hwaiting : SameEngine s { u with pending := none } :=
    ⟨⟨hu.hash, hu.buf, hu.count, hu.used, hu.lovf, hu.phase⟩, hu.err, hu.errCode, hs.pending.symm, hu.resetAsserted⟩
  have hread := consumes_hostRead hperformed.inv hperformed.released .status
  have hpoll := sameEngine_readRegister .status { effectOf i u with pending := none }
  have heffect : SameEngine (effectOf i s) { effectOf i u with pending := none } := by
    rw [effectOf_pending_none]
    exact sameEngine_effectOf hwaiting i
  exact ⟨_, (consumes_hostCommand hs hwf ha).append (hpolls.append (hturn.append hread)), hpoll.idle hperformed,
    heffect.trans hpoll⟩

end

/-! ### LOAD -/

/-- Word `j` of a LOAD: four bytes, missing ones 0x00 (R55). -/
def loadWord (bytes : List Byte) (j : Nat) : Word :=
  be32 (bytes.getD (4 * j) 0) (bytes.getD (4 * j + 1) 0) (bytes.getD (4 * j + 2) 0) (bytes.getD (4 * j + 3) 0)

/-- The DATA writes of the first `n` words of a LOAD. -/
def loadWords (bytes : List Byte) (n : Nat) : List Event :=
  (List.range n).map fun j => hostWrite (.data (Fin.ofNat 16 j)) (loadWord bytes j)

theorem hostLoad_eq (bytes : List Byte) : hostLoad bytes = loadWords bytes ((bytes.length + 3) / 4) := rfl

theorem loadWords_succ (bytes : List Byte) (n : Nat) :
    loadWords bytes (n + 1) = loadWords bytes n ++ [hostWrite (.data (Fin.ofNat 16 n)) (loadWord bytes n)] := by
  simp [loadWords, List.range_succ]

/-- The bytes of a big-endian word (R11). -/
theorem extractLsb'_be32 (b0 b1 b2 b3 : Byte) :
    (be32 b0 b1 b2 b3).extractLsb' 24 8 = b0 ∧ (be32 b0 b1 b2 b3).extractLsb' 16 8 = b1 ∧
    (be32 b0 b1 b2 b3).extractLsb' 8 8 = b2 ∧ (be32 b0 b1 b2 b3).extractLsb' 0 8 = b3 := by
  simp (disch := omega) only [be32, BitVec.extractLsb'_append_eq_of_le, BitVec.extractLsb'_append_eq_of_add_le,
    Nat.reduceSub, BitVec.extractLsb'_eq_self, and_self]

/-- The word a LOAD stores at DATA `j` is the four bytes at those places. -/
theorem putBytes_loadWord_getElem (bytes : List Byte) (j : Fin 16) (buf : Buffer) {a : Nat} (ha : a < 128) :
    (putBytes (4 * j.val) (be32bytes (loadWord bytes j.val)) buf)[a] =
      if a / 4 = j.val then bytes.getD a 0 else buf[a] := by
  obtain ⟨h0, h1, h2, h3⟩ := extractLsb'_be32 (bytes.getD (4 * j.val) 0) (bytes.getD (4 * j.val + 1) 0)
    (bytes.getD (4 * j.val + 2) 0) (bytes.getD (4 * j.val + 3) 0)
  rw [putBytes_be32bytes_getElem j _ buf ha, loadWord, h0, h1, h2, h3]
  by_cases hword : a / 4 = j.val
  · rw [if_pos hword]
    obtain rfl | rfl | rfl | rfl : a = 4 * j.val ∨ a = 4 * j.val + 1 ∨ a = 4 * j.val + 2 ∨ a = 4 * j.val + 3 := by omega
    all_goals simp
  · rw [if_neg hword, if_neg (by omega), if_neg (by omega), if_neg (by omega), if_neg (by omega)]

section
variable {s : State}

/-- An accepted DATA write leaves its word in BUF and the engine idle (R36). -/
theorem consumes_dataWrite (hs : Idle s) (j : Fin 16) (v : Word) : Consumes [hostWrite (.data j) v] s
    (respond .writeAck { s with buf := putBytes (4 * j.val) (be32bytes v) s.buf }) :=
  consumes_of_step fun rest => by
    have hnext : AccessNext (.write .bits32 (regOffset (.data j)) v) rest
        (withInputs (hostWrite (.data j) v :: rest) s) := accessNext_withInputs hs.inv hs.released rest
    have hwrite := writeData_of_idle (s := withInputs rest s) j v hs.busy
    rw [step_write hnext, writeRegister, withInputs_withInputs, hwrite]
    rfl

theorem Idle.withBuf (hs : Idle s) (buf : Buffer) : Idle { s with buf := buf } :=
  ⟨hs.inv.withBuf hs.released buf, hs.released, hs.pending⟩

/-- States that differ in BUF alone are the same engine once the same bytes are stored in both. -/
theorem SameEngine.store {t : State} (h : SameEngine { s with buf := t.buf } t) (r : BusResponse) (buf : Buffer) :
    SameEngine { s with buf := buf } (respond r { t with buf := buf }) :=
  ⟨⟨h.hash, rfl, h.count, h.used, h.lovf, h.phase⟩, h.err, h.errCode, h.pending, h.resetAsserted⟩

/-- The first `n` words of a LOAD change BUF alone, where the bytes loaded so far stand. -/
theorem consumes_loadWords (hs : Idle s) (bytes : List Byte) {n : Nat} (hn : n ≤ 16) :
    ∃ t, Consumes (loadWords bytes n) s t ∧ SameEngine { s with buf := t.buf } t ∧
      ∀ (a : Nat) (ha : a < 128), a < 4 * n → t.buf[a] = bytes.getD a 0 := by
  induction n with
  | zero => exact ⟨s, consumes_nil s, SameEngine.refl s, by omega⟩
  | succ n ih =>
    obtain ⟨t, hrun, ht, hbytes⟩ := ih (by omega)
    have hidle : Idle t := ht.idle (hs.withBuf t.buf)
    have hplace : (Fin.ofNat 16 n).val = n := Nat.mod_eq_of_lt (by omega)
    have hwrite := consumes_dataWrite hidle (Fin.ofNat 16 n) (loadWord bytes n)
    rw [loadWords_succ]
    refine ⟨_, hrun.append hwrite, ht.store .writeAck _, fun a ha hlt => ?_⟩
    have hbyte := putBytes_loadWord_getElem bytes (Fin.ofNat 16 n) t.buf ha
    rw [hplace] at hbyte
    simp only [respond_buf, hplace, hbyte]
    split
    next => rfl
    next hother => exact hbytes a ha (by omega)

/-- A LOAD of up to 64 bytes leaves them in BUF and the engine idle, everything else as it was (R55). -/
theorem consumes_hostLoad (hs : Idle s) {bytes : List Byte} (hlength : bytes.length ≤ 64) :
    ∃ t, Consumes (hostLoad bytes) s t ∧ Idle t ∧ SameEngine { s with buf := t.buf } t ∧
      ∀ (a : Nat) (ha : a < 128), a < bytes.length → t.buf[a] = bytes.getD a 0 := by
  obtain ⟨t, hrun, ht, hbytes⟩ := consumes_loadWords hs bytes (n := (bytes.length + 3) / 4) (by omega)
  exact ⟨t, hostLoad_eq bytes ▸ hrun, ht.idle (hs.withBuf t.buf), ht, fun a ha hlt => hbytes a ha (by omega)⟩

end

end Sys2Proof.Machine
end

section
/-! The host sequence (45_commands.md R96): what stands in the engine after INIT, after each full block, at the end of
the message, and after FINAL. -/

namespace Sys2Proof.Machine

/-- An idle engine in a session that `s0` was before: the error record is its, and LOVF = 0. -/
structure InSession (s0 s : State) : Prop where
  idle : Idle s
  err : s.err = s0.err
  errCode : s.errCode = s0.errCode
  lovf : s.lovf = false

/-- The engine has absorbed the first `k` blocks of `m` (R92). -/
structure Absorbed (m : List Byte) (k : Nat) (s0 s : State) : Prop extends InSession s0 s where
  phase : s.phase = .absorb
  hash : s.hash = chain m k
  count : s.count = BitVec.ofNat 64 (64 * k)

/-- The engine has taken in all of `m`: what FINAL needs (R93). -/
structure Complete (m : List Byte) (s0 s : State) : Prop extends InSession s0 s where
  phase : s.phase ≠ .done
  hash : s.hash = chain m (m.length / 64)
  count : s.count = BitVec.ofNat 64 m.length
  used : s.used.toNat = m.length % 64
  buf : ∀ (a : Nat) (h : a < 128), a < s.used.toNat → s.buf[a] = m.getD (64 * (m.length / 64) + a) 0

/-- The session of `m` has ended with its digest in H (R95). -/
structure Finished (m : List Byte) (s0 s : State) : Prop extends InSession s0 s where
  phase : s.phase = .done
  hash : s.hash = sha256 m
  count : s.count = BitVec.ofNat 64 m.length

/-! ### INIT -/

theorem consumes_init (m : List Byte) {s : State} (hs : Idle s) (polls : Nat) :
    ∃ t, Consumes ([hostCommand .init] ++ hostWait polls) s t ∧ Absorbed m 0 s t := by
  obtain ⟨t, hrun, hidle, ht⟩ := consumes_perform (i := .init) hs rfl rfl polls
  exact ⟨t, hrun, ⟨hidle, ht.err, ht.errCode, ht.lovf⟩, ht.phase, ht.hash, ht.count⟩

/-! ### The full blocks -/

theorem messagePart_getD (m : List Byte) (b : Nat) {a : Nat} (ha : a < 64) :
    (messagePart m b).getD a 0 = m.getD (64 * b + a) 0 := by
  simp [messagePart, List.getD_eq_getElem?_getD, ha]

theorem messagePart_length (m : List Byte) (b : Nat) : (messagePart m b).length = min 64 (m.length - 64 * b) := by
  simp [messagePart]

/-- COUNT and LOVF after n more bytes of a message below 2^61 bytes (R79). -/
theorem countAfter_ofNat {k n : Nat} (hn : n ≤ 64) (h : k + n < 2 ^ 61) :
    countAfter (BitVec.ofNat 64 k) (BitVec.ofNat 7 n) = BitVec.ofNat 64 (k + n) ∧
      lovfAfter false (BitVec.ofNat 64 k) (BitVec.ofNat 7 n) = false := by
  have htotal : exactTotal (BitVec.ofNat 64 k) (BitVec.ofNat 7 n) = k + n := by
    rw [exactTotal, byteCount, BitVec.toNat_ofNat, BitVec.toNat_ofNat, Nat.mod_eq_of_lt (by omega),
      Nat.mod_eq_of_lt (by omega)]
  rw [countAfter, lovfAfter, htotal]
  exact ⟨rfl, decide_eq_false h.not_ge⟩

/-- LOAD of block `k` of the message and UPDATE of its n bytes: a full block is compressed, a shorter one is left in BUF
and ends the message (R92). -/
theorem consumes_load_update {m : List Byte} {k n : Nat} {s0 s : State} (h : Absorbed m k s0 s) (hn : n ≤ 64)
    (hlength : (messagePart m k).length = n) (hbound : 64 * k + n < 2 ^ 61) (polls : Nat) :
    ∃ t, Consumes (hostLoad (messagePart m k) ++ [hostCommand (.update (BitVec.ofNat 7 n))] ++ hostWait polls) s t ∧
      InSession s0 t ∧ t.count = BitVec.ofNat 64 (64 * k + n) ∧
      (n = 64 → t.hash = chain m (k + 1) ∧ t.phase = .absorb) ∧
      (n < 64 → t.hash = chain m k ∧ t.phase = .partialBlock ∧ t.used.toNat = n ∧
        ∀ (a : Nat) (ha : a < 128), a < n → t.buf[a] = m.getD (64 * k + a) 0) := by
  obtain ⟨u, hload, hidle, hu, hbytes⟩ := consumes_hostLoad h.idle (bytes := messagePart m k) (hlength ▸ hn)
  have hphase : u.phase = .absorb := hu.phase.trans h.phase
  have hhash : u.hash = chain m k := hu.hash.trans h.hash
  have hbuf {a : Nat} (ha : a < 128) (hlt : a < n) : u.buf[a] = m.getD (64 * k + a) 0 := by
    rw [hbytes a ha (hlength ▸ hlt), messagePart_getD m k (hlt.trans_le hn)]
  have hbyteCount : byteCount (BitVec.ofNat 7 n) = n := Nat.mod_eq_of_lt (by omega)
  have hwf : (Instr.update (BitVec.ofNat 7 n)).wf = true := decide_eq_true (hbyteCount.trans_le hn)
  obtain ⟨t, hperform, ht, hsame⟩ := consumes_perform hidle hwf ((allowed_update_iff _ _).2 hphase) polls
  obtain ⟨hcount, hlovf⟩ := countAfter_ofNat hn hbound
  rw [← h.count] at hcount hlovf
  refine ⟨t, ?run, ⟨ht, ?err, ?errCode, ?lovf⟩, ?count, fun hfull => ?full, fun hshort => ?short⟩
  case run =>
    rw [List.append_assoc]
    exact hload.append hperform
  case err => rw [hsame.err, effectOf_err, hu.err, h.err]
  case errCode => rw [hsame.errCode, effectOf_errCode, hu.errCode, h.errCode]
  case lovf => rw [hsame.lovf, effectOf, updateEffect_lovf, hu.lovf, h.lovf, hu.count, hlovf]
  case count => rw [hsame.count, effectOf, updateEffect_count, hu.count, hcount]
  case full =>
    have hblock : lowBlock u.buf = blockAt m k :=
      Vector.ext fun a ha => by rw [lowBlock_getElem, blockAt_getElem _ _ ha, hbuf (by omega) (hfull ▸ ha)]
    rw [hsame.hash, hsame.phase, effectOf, updateEffect_hash, updateEffect_phase, if_pos (hbyteCount.trans hfull),
      if_pos (hbyteCount.trans hfull), hhash, hblock, chain_succ]
    exact ⟨rfl, hphase⟩
  case short =>
    have hne : byteCount (BitVec.ofNat 7 n) ≠ 64 := hbyteCount.trans_ne hshort.ne
    refine ⟨?_, ?_, ?_, fun a ha hlt => ?_⟩
    · rw [hsame.hash, effectOf, updateEffect_hash, if_neg hne, hhash]
    · rw [hsame.phase, effectOf, updateEffect_phase, if_neg hne]
    · rw [hsame.used, effectOf, updateEffect_used, if_neg hne, BitVec.toNat_setWidth]
      exact (congrArg (· % 64) hbyteCount).trans (Nat.mod_eq_of_lt hshort)
    · simp only [hsame.buf, effectOf, updateEffect_buf]
      exact hbuf ha hlt

/-- The blocks of the message one after another, each with its LOAD, UPDATE 64 and WAIT. -/
theorem consumes_fullBlocks {m : List Byte} {s0 s : State} (hm : m.length < 2 ^ 61) (h : Absorbed m 0 s0 s)
    (polls : Nat → Nat) {k : Nat} (hk : 64 * k ≤ m.length) :
    ∃ t, Consumes ((List.range k).flatMap fun b =>
      hostLoad (messagePart m b) ++ [hostCommand (.update 64)] ++ hostWait (polls b)) s t ∧ Absorbed m k s0 t := by
  induction k with
  | zero => exact ⟨s, consumes_nil s, h⟩
  | succ k ih =>
    obtain ⟨t, hrun, ht⟩ := ih (by omega)
    obtain ⟨u, hblock, hu, hcount, hfull, -⟩ := consumes_load_update ht (n := 64) le_rfl
      (by rw [messagePart_length]; omega) (by omega) (polls k)
    obtain ⟨hhash, hphase⟩ := hfull rfl
    refine ⟨u, ?_, hu, hphase, hhash, hcount⟩
    rw [List.range_succ, List.flatMap_append, List.flatMap_singleton]
    exact hrun.append hblock

/-- The last bytes of the message, if there are any, and what FINAL needs then. -/
theorem consumes_tail {m : List Byte} {s0 s : State} (hm : m.length < 2 ^ 61) (h : Absorbed m (m.length / 64) s0 s)
    (polls : Nat) : ∃ t, Consumes (hostTail m polls) s t ∧ Complete m s0 t := by
  by_cases hzero : m.length % 64 = 0
  · have hused : s.used = 0 := ((consistent_iff s).1 h.idle.inv.consistent).1 h.phase
    have hcount : s.count = BitVec.ofNat 64 m.length := by rw [h.count]; congr 1; omega
    rw [hostTail, if_pos hzero]
    exact ⟨s, consumes_nil s, h.toInSession, by simp [h.phase], h.hash, hcount, by simp [hused, hzero], by simp [hused]⟩
  · obtain ⟨t, hrun, ht, hcount, -, hshort⟩ := consumes_load_update h (n := m.length % 64) (by omega)
      (by rw [messagePart_length]; omega) (by omega) polls
    obtain ⟨hhash, hphase, hused, hbuf⟩ := hshort (by omega)
    rw [hostTail, if_neg hzero]
    exact ⟨t, hrun, ht, by simp [hphase], hhash, by rw [hcount, Nat.div_add_mod], hused,
      fun a ha hlt => hbuf a ha (hused ▸ hlt)⟩

/-! ### FINAL and DIGEST -/

theorem consumes_final {m : List Byte} {s0 s : State} (h : Complete m s0 s) (polls : Nat) :
    ∃ t, Consumes ([hostCommand .final] ++ hostWait polls) s t ∧ Finished m s0 t := by
  obtain ⟨t, hrun, hidle, ht⟩ := consumes_perform (i := .final) h.idle rfl (allowed_final_of_ne_done h.phase) polls
  have hhash : t.hash = sha256 m := ht.hash.trans (finalEffect_hash_eq_sha256 h.hash h.count h.used h.buf)
  exact ⟨t, hrun, ⟨hidle, ht.err.trans h.err, ht.errCode.trans h.errCode, ht.lovf.trans h.lovf⟩, ht.phase, hhash,
    ht.count.trans h.count⟩

/-- INIT, the blocks, the tail and FINAL hash the message (R96). -/
theorem consumes_hostHash {m : List Byte} {s : State} (hm : m.length < 2 ^ 61) (hs : Idle s) (initPolls : Nat)
    (blockPolls : Nat → Nat) (tailPolls finalPolls : Nat) :
    ∃ t, Consumes (hostHash m initPolls blockPolls tailPolls finalPolls) s t ∧ Finished m s t := by
  obtain ⟨t, hinit, ht⟩ := consumes_init m hs initPolls
  obtain ⟨u, hblocks, hu⟩ := consumes_fullBlocks hm ht blockPolls (Nat.mul_div_le m.length 64)
  obtain ⟨v, htail, hv⟩ := consumes_tail hm hu tailPolls
  obtain ⟨w, hfinal, hw⟩ := consumes_final hv finalPolls
  refine ⟨w, ?_, hw⟩
  rw [hostHash, List.append_assoc _ [hostCommand .final]]
  exact ((hinit.append hblocks).append htail).append hfinal

theorem hostDigest_eq : hostDigest = ((List.finRange 8).map Reg.h).map hostRead := by
  rw [hostDigest, List.map_map]
  rfl

/-- Settles O60: the host sequence ends the session with the digest in H, and DIGEST reads the eight words of H. -/
theorem hostSequenceHashesTheMessage : Obligations.HostSequenceHashesTheMessage := by
  intro m initPolls blockPolls tailPolls finalPolls s hm hs hr hp hin
  obtain ⟨t, hhash, ht⟩ := consumes_hostHash hm ⟨hs, hr, hp⟩ initPolls blockPolls tailPolls finalPolls
  have hdigest := consumes_reads ((List.finRange 8).map Reg.h) ht.idle
  rw [← hostDigest_eq] at hdigest
  have hrun := hhash.append hdigest []
  rw [List.append_nil, ← hin] at hrun
  refine ⟨_, hrun, rfl, ?ended, ht.hash, ht.count, ht.lovf, ht.err, ht.errCode, ?answers⟩
  case ended =>
    show (t.phase == .done && !t.busy) = true
    rw [ht.phase, ht.idle.busy]
    rfl
  case answers =>
    have hanswers : readAnswers ((List.finRange 8).map Reg.h) t =
        ((List.finRange 8).map fun i => BusResponse.readData (sha256 m)[i]).reverse := by
      rw [readAnswers, List.map_map, ← ht.hash]
      rfl
    show (readAnswers _ t ++ t.responses).take 8 = _
    rw [hanswers, List.take_left' (by simp)]

end Sys2Proof.Machine
end
